-- ==== Sys2Proof/Word.lean ====
section
/-! DEFINITION. The word, the byte and the register number of the core (00_scope.md R8 to R10). -/

namespace Sys2Proof

/-- The one data width: 16 bits, arithmetic modulo 2^16 (R10). -/
abbrev Word := BitVec 16

/-- A character of the keyboard and output channels (10_state.md R34 to R36), or half of an image word (R261). -/
abbrev Byte := BitVec 8

/-- The number of a general register, R0 to R7 (10_state.md R22). -/
abbrev Reg := Fin 8

end Sys2Proof
end

