-- ==== Sys2Proof/Config.lean ====
section
/-! DEFINITION. What one implementation fixes (00_scope.md R8) and the one value the spec leaves free (D6). -/

namespace Sys2Proof

/-- The named parameters of 00_scope.md R8. They stand in the state as plain data that nothing writes, so a
statement over all states covers all their values (log 2, DESIGN CHOICE). -/
structure Config where
  /-- KBSR_ADDR, the keyboard status register's address (D4). -/
  kbsrAddr : Word
  /-- KBDR_ADDR, the keyboard data register's address (D4). -/
  kbdrAddr : Word
  /-- IN_PROMPT, the bytes the IN trap writes before it reads (D15). -/
  inPrompt : List Byte
  deriving DecidableEq, Repr

/-- MEM_WORDS of R8: 2^16 words. -/
def Config.memWords : Nat := 65536

/-- "KBSR_ADDR and KBDR_ADDR must differ" (R8). -/
abbrev Config.wf (c : Config) : Prop := c.kbsrAddr ≠ c.kbdrAddr

/-- R8's defaults: 0xFE00, 0xFE02 and the 19 characters "Enter a character: ". PRESUMED (log 2): the spec marks
them as general knowledge. -/
def Config.default : Config where
  kbsrAddr := 0xFE00#16
  kbdrAddr := 0xFE02#16
  inPrompt := [0x45#8, 0x6E#8, 0x74#8, 0x65#8, 0x72#8, 0x20#8, 0x61#8, 0x20#8, 0x63#8, 0x68#8, 0x61#8, 0x72#8,
    0x61#8, 0x63#8, 0x74#8, 0x65#8, 0x72#8, 0x3A#8, 0x20#8]

/-- The draw `kbdr_empty` (20_memory.md R58, D6): what the n-th read of KBDR_ADDR with no character pending
returns. "A model must admit every Word there", so it has no body and nothing can be proved of its value (log 3). -/
opaque Config.kbdrEmpty : Nat → Word

end Sys2Proof
end

