-- ==== Sys2Proof/Machine/State.lean ====
section
/-! DEFINITION. The state of the core (10_state.md R20), the reasons a step can stop, and the state after reset. -/

namespace Sys2Proof.Machine

/-- M[0..65535] as (address, byte) cells in one canonical form (`Memory.wf`). The Word at word address `a` (20_memory.md
R50) stands in two cells, bits 15..8 at `2 * a` and bits 7..0 at `2 * a + 1`, the order of an image (R62, R261). Nothing
can observe the order: the core has no byte access (log 1, DESIGN CHOICE). -/
abbrev Memory := List Host.Cell

/-- The canonical form from cell address `lo` up: addresses strictly rising and inside the 65536 words, and no cell
that holds what an unlisted cell reads as, 0 (R50: "Memory zero-initialized"). -/
def Memory.wfFrom : Nat → Memory → Bool
  | _, [] => true
  | lo, (k, b) :: m => decide (lo ≤ k) && decide (k < 2 * Config.memWords) && decide (b ≠ 0#8) && Memory.wfFrom (k + 1) m

/-- The canonical form of a memory. -/
def Memory.wf (m : Memory) : Bool := Memory.wfFrom 0 m

/-- The two fatal errors (10_state.md R33; 60_exceptions.md R220). -/
inductive FatalKind where
  | illegalOpcode
  | unknownTrap
  deriving DecidableEq, Repr

/-- The fault record (R33). `detail` is ir[15:12] or ir[7:0] as a Word (R10, log 10). -/
structure FaultRecord where
  kind : FatalKind
  faultPc : Word
  ir : Word
  detail : Word
  deriving DecidableEq, Repr

/-- The state of R20, every piece of it, and two fields of the model's own: `config` and `kbdrDraws`. -/
structure State where
  /-- x[0..7] (R22). -/
  regs : Vector Word 8
  /-- The program counter, a word address (R25). -/
  pc : Word
  /-- COND: bit 2 = N, bit 1 = Z, bit 0 = P (R26). -/
  cond : BitVec 3
  /-- RUNNING (R31). -/
  running : Bool
  /-- M (20_memory.md R50). -/
  mem : Memory
  /-- kb_ready, a character is ready (R34). -/
  kbReady : Bool
  /-- kb_data, the pending character (R34). -/
  kbData : Byte
  /-- The input channel, its head first (R35). -/
  input : List Byte
  /-- The output channel, the oldest byte first (R36). -/
  output : List Byte
  /-- The fault record (R33). -/
  fault : Option FaultRecord
  /-- The model's own: the parameters of 00_scope.md R8; nothing writes them (log 2). -/
  config : Config
  /-- The model's own: how many values of the draw `kbdr_empty` have been taken (20_memory.md R58, log 3). -/
  kbdrDraws : Nat
  deriving DecidableEq, Repr

/-- Why a step stops without a next state. No behaviour of the spec is one of these. -/
inductive Fault where
  /-- Raised by PUTS and PUTSP only, when the scan has used up the number of reads that R180 proves enough. It cannot
  happen while KBSR_ADDR and KBDR_ADDR differ, as R8 requires. Safe (log 6). -/
  | scanUnended
  deriving DecidableEq, Repr

/-- Why an instruction has no meaning. -/
inductive Refusal where
  /-- Raised by exec's arm of an instruction that has no meaning yet; no arm is left so. Safe. -/
  | notModelled (mnemonic : String)
  deriving DecidableEq, Repr

/-- `new()` with the parameters `c` (70_reset_and_hazards.md R260; 10_state.md R38). -/
def State.new (c : Config) : State where
  regs := Vector.replicate 8 0x0000#16
  pc := 0x0000#16
  cond := 0b010#3
  running := false
  mem := []
  kbReady := false
  kbData := 0x00#8
  input := []
  output := []
  fault := none
  config := c
  kbdrDraws := 0

/-- The machine right after construction, the only reset there is (R260). RUNNING is 0: no instruction runs before a
load (D20). The parameters are R8's defaults (log 2) and the draw counter starts at 0 (log 3, DESIGN CHOICE). -/
def State.reset : State := State.new Config.default

end Sys2Proof.Machine
end

