-- ==== Sys2Proof/Machine/Ops.lean ====
section
/-! DEFINITION. The named operations over registers, memory, the keyboard and the output channel (00_scope.md R12 to
R15), and the entry of a fatal error (60_exceptions.md R224). -/

namespace Sys2Proof.Machine

/-! ### One setter for each piece of state an operation writes -/

def State.setRegs (s : State) (v : Vector Word 8) : State := { s with regs := v }
def State.setPc (s : State) (v : Word) : State := { s with pc := v }
def State.setCond (s : State) (v : BitVec 3) : State := { s with cond := v }
def State.setRunning (s : State) (v : Bool) : State := { s with running := v }
def State.setMem (s : State) (v : Memory) : State := { s with mem := v }
def State.setKbReady (s : State) (v : Bool) : State := { s with kbReady := v }
def State.setKbData (s : State) (v : Byte) : State := { s with kbData := v }
def State.setInput (s : State) (v : List Byte) : State := { s with input := v }
def State.setOutput (s : State) (v : List Byte) : State := { s with output := v }
def State.setFault (s : State) (v : Option FaultRecord) : State := { s with fault := v }
def State.setKbdrDraws (s : State) (v : Nat) : State := { s with kbdrDraws := v }

/-! ### General registers -/

/-- `x[r]` (R12). No register is hardwired (10_state.md R22). -/
def State.reg (s : State) (r : Reg) : Word := s.regs[r]

/-- `x[r] <- v` (R12). -/
def State.setReg (s : State) (r : Reg) (v : Word) : State := s.setRegs (s.regs.set r v)

/-- `zext_N(v)` (R11). -/
def zext {n : Nat} (v : BitVec n) : Word := v.setWidth 16

/-- w[7:0], the character of a word (20_memory.md R62). -/
def lowByte (w : Word) : Byte := w.extractLsb' 0 8

/-- w[15:8]. -/
def highByte (w : Word) : Byte := w.extractLsb' 8 8

/-! ### The backing words M -/

/-- One cell; an unlisted cell reads as 0 (20_memory.md R50). -/
def Memory.cell : Memory → Nat → Byte
  | [], _ => 0#8
  | (k, b) :: m, a => if k = a then b else Memory.cell m a

/-- Without the cell at `a`. -/
def Memory.erase : Memory → Nat → Memory
  | [], _ => []
  | (k, b) :: m, a => if k = a then Memory.erase m a else (k, b) :: Memory.erase m a

/-- With `v` in the cell at `a`, in its place by address. -/
def Memory.insert : Memory → Nat → Byte → Memory
  | [], a, v => [(a, v)]
  | (k, b) :: m, a, v =>
    if k = a then (a, v) :: m
    else if a < k then (a, v) :: (k, b) :: m
    else (k, b) :: Memory.insert m a v

/-- Write one cell in the canonical form: a 0 is not listed. -/
def Memory.setCell (m : Memory) (a : Nat) (v : Byte) : Memory :=
  if v = 0#8 then m.erase a else m.insert a v

/-- M[a], with no device effect (R13). -/
def Memory.read (m : Memory) (a : Word) : Word := m.cell (2 * a.toNat) ++ m.cell (2 * a.toNat + 1)

/-- M[a] <- v, with no device effect (R13). -/
def Memory.write (m : Memory) (a v : Word) : Memory :=
  (m.setCell (2 * a.toNat) (highByte v)).setCell (2 * a.toNat + 1) (lowByte v)

/-! ### The keyboard -/

/-- `kbd_poll()` (20_memory.md R56): at most one byte moves from the input channel into an empty latch. -/
def State.kbdPoll (s : State) : State :=
  match s.kbReady, s.input with
  | false, b :: rest => ((s.setKbData b).setInput rest).setKbReady true
  | false, [] => s
  | true, _ => s

/-- `kbd_take()` (R60). -/
def State.kbdTake (s : State) : Option Byte × State :=
  let p := s.kbdPoll
  if p.kbReady then (some p.kbData, p.setKbReady false) else (none, p)

/-- A read of the status register (R57). -/
def State.readKbsr (s : State) : Word × State :=
  let p := s.kbdPoll
  (if p.kbReady then 0x8000#16 else 0x0000#16, p)

/-- A read of the data register (R58). With nothing pending it answers the next free value (log 3). -/
def State.readKbdr (s : State) : Word × State :=
  let p := s.kbdPoll
  if p.kbReady then (zext p.kbData, p.setKbReady false)
  else (Config.kbdrEmpty p.kbdrDraws, p.setKbdrDraws (p.kbdrDraws + 1))

/-- Is `a` one of the two device addresses (R55)? -/
def State.isDevice (s : State) (a : Word) : Bool := decide (a = s.config.kbsrAddr) || decide (a = s.config.kbdrAddr)

/-! ### The read and write primitives every access of the core goes through (R61) -/

/-- `MemRead(a, 1)` (R53, R57, R58). -/
def State.memRead (s : State) (a : Word) : Word × State :=
  if a = s.config.kbsrAddr then s.readKbsr
  else if a = s.config.kbdrAddr then s.readKbdr
  else (s.mem.read a, s)

/-- `MemWrite(a, 1, v)` (R54); a write to a device address is ignored (R59). -/
def State.memWrite (s : State) (a v : Word) : State :=
  if s.isDevice a then s else s.setMem (s.mem.write a v)

/-- The fetch (30_encoding.md R81): read the word at pc, with device effects, then pc + 1 modulo 2^16. -/
def State.fetch (s : State) : Word × State :=
  let r := s.memRead s.pc
  (r.1, r.2.setPc (s.pc + 1))

/-! ### The output channel and the ways a step can end (R14, R15) -/

/-- `out(b)` (R14). -/
def State.out (s : State) (b : Byte) : State := s.setOutput (s.output ++ [b])

/-- `hold` (R15, 44_trap.md R179): pc goes back to the instruction's own address. -/
def State.hold (s : State) : State := s.setPc (s.pc - 1)

/-- `halt` (R15, R176). -/
def State.halt (s : State) : State := s.setRunning false

/-- The entry of a fatal error (60_exceptions.md R224), the one exception entry of the core: the fault record is
written, RUNNING becomes 0, and pc keeps fault_pc + 1. There is no handler and no return (R228); only `load` makes
the core run again (R226), see Machine/HostPort.lean. -/
def State.raiseFatal (s : State) (kind : FatalKind) (ir detail : Word) : State :=
  (s.setFault (some { kind := kind, faultPc := s.pc - 1, ir := ir, detail := detail })).setRunning false

end Sys2Proof.Machine
end

