-- ==== Sys2Proof/Machine/Operands.lean ====
section
/-! DEFINITION. The operand forms: sign extension (00_scope.md R11; 30_encoding.md R85) and the two address sums
(R87; 42_load.md R139). In a meaning `pc` is already the fetched address + 1. -/

namespace Sys2Proof.Machine

/-- `sext_N(v)` (R11). -/
def sext {n : Nat} (v : BitVec n) : Word := v.signExtend 16

/-- The PC-relative address pc + sext_N(offset), modulo 2^16 (R87). -/
def State.pcRel {n : Nat} (s : State) (off : BitVec n) : Word := s.pc + sext off

/-- The base-relative address x[BaseR] + sext_6(offset6), modulo 2^16 (R87). -/
def State.baseRel (s : State) (base : Reg) (off : BitVec 6) : Word := s.reg base + sext off

end Sys2Proof.Machine
end

