-- ==== Sys2Proof/Machine/Flags.lean ====
section
/-! DEFINITION. COND: the one flag-setting primitive (10_state.md R28) and the one test of it (41_control.md R120). -/

namespace Sys2Proof.Machine

/-- The COND value of `setcc(v)` (R28). -/
def condOf (v : Word) : BitVec 3 :=
  if v.getLsbD 15 then 0b100#3 else if v = 0x0000#16 then 0b010#3 else 0b001#3

/-- `setcc(v)` (R28). -/
def State.setcc (s : State) (v : Word) : State := s.setCond (condOf v)

/-- The end of every flag-setting instruction: write DR, then setcc once with that value (R29). -/
def State.writeResult (s : State) (dr : Reg) (v : Word) : State := (s.setReg dr v).setcc v

/-- BR's test: a requested condition bit matches the current flag (R120). -/
def condMatches (nzp cond : BitVec 3) : Bool := decide (nzp &&& cond ≠ 0b000#3)

end Sys2Proof.Machine
end

