-- ==== Sys2Proof/Machine/Control.lean ====
section
/-! DEFINITION. Control transfer (41_control.md). No memory access, no COND write; any Word is a target (R119). -/

namespace Sys2Proof.Machine

/-- BR (R120). -/
def execBr (nzp : BitVec 3) (off : BitVec 9) (s : State) : Host.Outcome State Fault Refusal :=
  .next (if condMatches nzp s.cond then s.setPc (s.pcRel off) else s)

/-- JMP (R121). -/
def execJmp (base : Reg) (s : State) : Host.Outcome State Fault Refusal :=
  .next (s.setPc (s.reg base))

/-- RET (R122): JMP with BaseR = 7. -/
def execRet (s : State) : Host.Outcome State Fault Refusal :=
  .next (s.setPc (s.reg 7))

/-- JSR (R123): R7 takes the return address, then pc the target. -/
def execJsr (off : BitVec 11) (s : State) : Host.Outcome State Fault Refusal :=
  .next ((s.setReg 7 s.pc).setPc (s.pcRel off))

/-- JSRR (R124): BaseR is read AFTER R7 is written (R16), so `JSRR R7` goes on at the next instruction. -/
def execJsrr (base : Reg) (s : State) : Host.Outcome State Fault Refusal :=
  let linked := s.setReg 7 s.pc
  .next (linked.setPc (linked.reg base))

end Sys2Proof.Machine
end

