-- ==== Sys2Proof/Machine/Load.lean ====
section
/-! DEFINITION. Loads and address computation (42_load.md). Every read is a `memRead`, so a device address has its
effects (20_memory.md R61). -/

namespace Sys2Proof.Machine

/-- The end of a load from `ea`: read, write DR, setcc. -/
def State.loadFrom (s : State) (dr : Reg) (ea : Word) : State :=
  let v := s.memRead ea
  v.2.writeResult dr v.1

/-- LD (R140). -/
def execLd (dr : Reg) (off : BitVec 9) (s : State) : Host.Outcome State Fault Refusal :=
  .next (s.loadFrom dr (s.pcRel off))

/-- LDI (R141): first the pointer, then the data. -/
def execLdi (dr : Reg) (off : BitVec 9) (s : State) : Host.Outcome State Fault Refusal :=
  let ea := s.memRead (s.pcRel off)
  .next (ea.2.loadFrom dr ea.1)

/-- LDR (R142). -/
def execLdr (dr base : Reg) (off : BitVec 6) (s : State) : Host.Outcome State Fault Refusal :=
  .next (s.loadFrom dr (s.baseRel base off))

/-- LEA (R143): the address itself, with no memory access; it sets COND. -/
def execLea (dr : Reg) (off : BitVec 9) (s : State) : Host.Outcome State Fault Refusal :=
  .next (s.writeResult dr (s.pcRel off))

end Sys2Proof.Machine
end

