-- ==== Sys2Proof/Syntax.lean ====
section
/-! DEFINITION. The instructions: one constructor for each row of spec/opcode_table.json, in the table's order.

A constructor's arguments are the row's fields from the high bit to the low bit (30_encoding.md R83, R84). The bits
no field uses (R91) are kept as arguments whose names begin with `ign`: no meaning looks at them, but the fault
record holds the whole instruction word (10_state.md R33), and the encoder loses no bit (log 11). -/

namespace Sys2Proof

/-- The sixteen values of ir[15:12] (R82, R90). `op1000` and `op1101` are the two illegal ones. -/
inductive Opcode where
  | br | add | ld | st | jsr | and | ldr | str | op1000 | not | ldi | sti | jmp | op1101 | lea | trap
  deriving DecidableEq, Repr

inductive Instr where
  /-- BR, R120. -/
  | br (nzp : BitVec 3) (off : BitVec 9)
  /-- ADD, register form, R110. -/
  | addReg (dr sr1 : Reg) (ign : BitVec 2) (sr2 : Reg)
  /-- ADD, immediate form, R111. -/
  | addImm (dr sr1 : Reg) (imm : BitVec 5)
  /-- LD, R140. -/
  | ld (dr : Reg) (off : BitVec 9)
  /-- ST, R160. -/
  | st (sr : Reg) (off : BitVec 9)
  /-- JSR, R123. -/
  | jsr (off : BitVec 11)
  /-- JSRR, R124. -/
  | jsrr (ignHi : BitVec 2) (base : Reg) (ignLo : BitVec 6)
  /-- AND, register form, R112. -/
  | andReg (dr sr1 : Reg) (ign : BitVec 2) (sr2 : Reg)
  /-- AND, immediate form, R113. -/
  | andImm (dr sr1 : Reg) (imm : BitVec 5)
  /-- LDR, R142. -/
  | ldr (dr base : Reg) (off : BitVec 6)
  /-- STR, R162. -/
  | str (sr base : Reg) (off : BitVec 6)
  /-- The illegal opcode 1000, R201. -/
  | illegal8 (ign : BitVec 12)
  /-- NOT, R114. -/
  | not (dr sr : Reg) (ign : BitVec 6)
  /-- LDI, R141. -/
  | ldi (dr : Reg) (off : BitVec 9)
  /-- STI, R161. -/
  | sti (sr : Reg) (off : BitVec 9)
  /-- JMP, R121; with BaseR = 7 the word is RET's. -/
  | jmp (ignHi : BitVec 3) (base : Reg) (ignLo : BitVec 6)
  /-- RET, R122: the words of JMP with BaseR = 7. -/
  | ret (ignHi : BitVec 3) (ignLo : BitVec 6)
  /-- The illegal opcode 1101, R200. -/
  | illegalD (ign : BitVec 12)
  /-- LEA, R143. -/
  | lea (dr : Reg) (off : BitVec 9)
  /-- TRAP x20, GETC, R171. -/
  | trapGetc (ign : BitVec 4)
  /-- TRAP x21, OUT, R172. -/
  | trapOut (ign : BitVec 4)
  /-- TRAP x22, PUTS, R173. -/
  | trapPuts (ign : BitVec 4)
  /-- TRAP x23, IN, R174. -/
  | trapIn (ign : BitVec 4)
  /-- TRAP x24, PUTSP, R175. -/
  | trapPutsp (ign : BitVec 4)
  /-- TRAP x25, HALT, R176. -/
  | trapHalt (ign : BitVec 4)
  /-- TRAP with any other vector, R170 and R177. -/
  | trap (ign : BitVec 4) (vect : BitVec 8)
  deriving DecidableEq, Repr

end Sys2Proof
end

