-- ==== Sys2Proof/WellFormed.lean ====
section
/-! DEFINITION. Which instruction terms stand for a word. The types already bound every field to its width (R83); two
rows of the table are less specific than another row and exclude its words: JMP excludes RET's BaseR = 7 (R122) and
TRAP excludes the six vectors that have rows of their own (R170). -/

namespace Sys2Proof

/-- The six vectors with a routine, 0x20 to 0x25 (R90, R170). -/
def knownVector (v : BitVec 8) : Bool := decide (0x20#8 ≤ v) && decide (v ≤ 0x25#8)

/-- The check: one line for each constructor. -/
def Instr.wellFormed : Instr → Bool
  | .br _ _ => true
  | .addReg _ _ _ _ => true
  | .addImm _ _ _ => true
  | .ld _ _ => true
  | .st _ _ => true
  | .jsr _ => true
  | .jsrr _ _ _ => true
  | .andReg _ _ _ _ => true
  | .andImm _ _ _ => true
  | .ldr _ _ _ => true
  | .str _ _ _ => true
  | .illegal8 _ => true
  | .not _ _ _ => true
  | .ldi _ _ => true
  | .sti _ _ => true
  | .jmp _ base _ => decide (base ≠ 7)
  | .ret _ _ => true
  | .illegalD _ => true
  | .lea _ _ => true
  | .trapGetc _ => true
  | .trapOut _ => true
  | .trapPuts _ => true
  | .trapIn _ => true
  | .trapPutsp _ => true
  | .trapHalt _ => true
  | .trap _ vect => !knownVector vect

end Sys2Proof
end

