-- ==== Sys2Proof/Decode.lean ====
section
/-! DEFINITION. The decoder and the encoder (30_encoding.md). Decoding is total and rejects nothing: "Every one of the
65536 words selects exactly one row" (R94). Every instruction is one Word (R80). -/

namespace Sys2Proof

/-- The field of `n` bits whose lowest bit is `lo` (R9: v[lo+n-1:lo]). -/
def field (ir : Word) (lo n : Nat) : BitVec n := ir.extractLsb' lo n

/-- R90's table of the sixteen opcode values, bit 3 first. -/
def opcodeOfBits (b : BitVec 4) : Opcode :=
  match b.getLsbD 3, b.getLsbD 2, b.getLsbD 1, b.getLsbD 0 with
  | false, false, false, false => .br
  | false, false, false, true => .add
  | false, false, true, false => .ld
  | false, false, true, true => .st
  | false, true, false, false => .jsr
  | false, true, false, true => .and
  | false, true, true, false => .ldr
  | false, true, true, true => .str
  | true, false, false, false => .op1000
  | true, false, false, true => .not
  | true, false, true, false => .ldi
  | true, false, true, true => .sti
  | true, true, false, false => .jmp
  | true, true, false, true => .op1101
  | true, true, true, false => .lea
  | true, true, true, true => .trap

/-- The opcode is ir[15:12] (R82). -/
def opcodeOf (ir : Word) : Opcode := opcodeOfBits (field ir 12 4)

/-- The register number in the three bits from `lo` up (R83). -/
def regField (ir : Word) (lo : Nat) : Reg := (field ir lo 3).toFin

/-- TRAP's second level: ir[7:0] selects the routine (R90, R170); ir[11:8] is ignored (R91). -/
def decodeTrap (ign : BitVec 4) (vect : BitVec 8) : Instr :=
  if vect = 0x20#8 then .trapGetc ign
  else if vect = 0x21#8 then .trapOut ign
  else if vect = 0x22#8 then .trapPuts ign
  else if vect = 0x23#8 then .trapIn ign
  else if vect = 0x24#8 then .trapPutsp ign
  else if vect = 0x25#8 then .trapHalt ign
  else .trap ign vect

/-- The decoder (R81 to R84, R90). The mode bits: ir[5] = 1 selects imm5 (R88), ir[11] = 1 selects JSR (R89). -/
def decode (ir : Word) : Instr :=
  match opcodeOf ir with
  | .br => .br (field ir 9 3) (field ir 0 9)
  | .add =>
    if field ir 5 1 = 0b1#1 then .addImm (regField ir 9) (regField ir 6) (field ir 0 5)
    else .addReg (regField ir 9) (regField ir 6) (field ir 3 2) (regField ir 0)
  | .ld => .ld (regField ir 9) (field ir 0 9)
  | .st => .st (regField ir 9) (field ir 0 9)
  | .jsr =>
    if field ir 11 1 = 0b1#1 then .jsr (field ir 0 11)
    else .jsrr (field ir 9 2) (regField ir 6) (field ir 0 6)
  | .and =>
    if field ir 5 1 = 0b1#1 then .andImm (regField ir 9) (regField ir 6) (field ir 0 5)
    else .andReg (regField ir 9) (regField ir 6) (field ir 3 2) (regField ir 0)
  | .ldr => .ldr (regField ir 9) (regField ir 6) (field ir 0 6)
  | .str => .str (regField ir 9) (regField ir 6) (field ir 0 6)
  | .op1000 => .illegal8 (field ir 0 12)
  | .not => .not (regField ir 9) (regField ir 6) (field ir 0 6)
  | .ldi => .ldi (regField ir 9) (field ir 0 9)
  | .sti => .sti (regField ir 9) (field ir 0 9)
  | .jmp =>
    if regField ir 6 = 7 then .ret (field ir 9 3) (field ir 0 6)
    else .jmp (field ir 9 3) (regField ir 6) (field ir 0 6)
  | .op1101 => .illegalD (field ir 0 12)
  | .lea => .lea (regField ir 9) (field ir 0 9)
  | .trap => decodeTrap (field ir 8 4) (field ir 0 8)

/-- The host's entry: a table word of `nbits` bits, the bits above them 0. An instruction longer than one Word does
not exist (R80). -/
def decodeTableWord (nbits w : Nat) : Option Instr :=
  if nbits ≤ 16 then some (decode (BitVec.ofNat 16 (w % 2 ^ nbits))) else none

/-- A register number as its three bits. -/
def regBits (r : Reg) : BitVec 3 := BitVec.ofFin r

/-- A concatenation of fields (R10's `++`) whose widths sum to 16, as a Word. -/
def toWord {n : Nat} (v : BitVec n) (h : n = 16 := by rfl) : Word := v.cast h

/-- The encoder: each format of R84 written out from bit 15 to bit 0. -/
def encode : Instr → Word
  | .br nzp off => toWord (0b0000#4 ++ nzp ++ off)
  | .addReg dr sr1 ign sr2 => toWord (0b0001#4 ++ regBits dr ++ regBits sr1 ++ 0b0#1 ++ ign ++ regBits sr2)
  | .addImm dr sr1 imm => toWord (0b0001#4 ++ regBits dr ++ regBits sr1 ++ 0b1#1 ++ imm)
  | .ld dr off => toWord (0b0010#4 ++ regBits dr ++ off)
  | .st sr off => toWord (0b0011#4 ++ regBits sr ++ off)
  | .jsr off => toWord (0b0100#4 ++ 0b1#1 ++ off)
  | .jsrr ignHi base ignLo => toWord (0b0100#4 ++ 0b0#1 ++ ignHi ++ regBits base ++ ignLo)
  | .andReg dr sr1 ign sr2 => toWord (0b0101#4 ++ regBits dr ++ regBits sr1 ++ 0b0#1 ++ ign ++ regBits sr2)
  | .andImm dr sr1 imm => toWord (0b0101#4 ++ regBits dr ++ regBits sr1 ++ 0b1#1 ++ imm)
  | .ldr dr base off => toWord (0b0110#4 ++ regBits dr ++ regBits base ++ off)
  | .str sr base off => toWord (0b0111#4 ++ regBits sr ++ regBits base ++ off)
  | .illegal8 ign => toWord (0b1000#4 ++ ign)
  | .not dr sr ign => toWord (0b1001#4 ++ regBits dr ++ regBits sr ++ ign)
  | .ldi dr off => toWord (0b1010#4 ++ regBits dr ++ off)
  | .sti sr off => toWord (0b1011#4 ++ regBits sr ++ off)
  | .jmp ignHi base ignLo => toWord (0b1100#4 ++ ignHi ++ regBits base ++ ignLo)
  | .ret ignHi ignLo => toWord (0b1100#4 ++ ignHi ++ 0b111#3 ++ ignLo)
  | .illegalD ign => toWord (0b1101#4 ++ ign)
  | .lea dr off => toWord (0b1110#4 ++ regBits dr ++ off)
  | .trapGetc ign => toWord (0b1111#4 ++ ign ++ 0x20#8)
  | .trapOut ign => toWord (0b1111#4 ++ ign ++ 0x21#8)
  | .trapPuts ign => toWord (0b1111#4 ++ ign ++ 0x22#8)
  | .trapIn ign => toWord (0b1111#4 ++ ign ++ 0x23#8)
  | .trapPutsp ign => toWord (0b1111#4 ++ ign ++ 0x24#8)
  | .trapHalt ign => toWord (0b1111#4 ++ ign ++ 0x25#8)
  | .trap ign vect => toWord (0b1111#4 ++ ign ++ vect)

end Sys2Proof
end

