-- ==== Sys2Proof/Machine/Reserved.lean ====
section
/-! DEFINITION. The illegal opcodes (45_reserved.md): IllegalOpcodeError, with the opcode as detail. -/

namespace Sys2Proof.Machine

/-- Opcode 1000 (R201). -/
def execIllegal8 (ign : BitVec 12) (s : State) : Host.Outcome State Fault Refusal :=
  .next (s.raiseFatal .illegalOpcode (encode (.illegal8 ign)) (zext 0b1000#4))

/-- Opcode 1101 (R200). -/
def execIllegalD (ign : BitVec 12) (s : State) : Host.Outcome State Fault Refusal :=
  .next (s.raiseFatal .illegalOpcode (encode (.illegalD ign)) (zext 0b1101#4))

end Sys2Proof.Machine
end

