-- ==== Sys2Proof/Machine/Store.lean ====
section
/-! DEFINITION. Stores (43_store.md). No store writes COND; a store to a device address is ignored (20_memory.md R59). -/

namespace Sys2Proof.Machine

/-- ST (R160). -/
def execSt (sr : Reg) (off : BitVec 9) (s : State) : Host.Outcome State Fault Refusal :=
  .next (s.memWrite (s.pcRel off) (s.reg sr))

/-- STI (R161): the pointer read has device effects. -/
def execSti (sr : Reg) (off : BitVec 9) (s : State) : Host.Outcome State Fault Refusal :=
  let ea := s.memRead (s.pcRel off)
  .next (ea.2.memWrite ea.1 (ea.2.reg sr))

/-- STR (R162). -/
def execStr (sr base : Reg) (off : BitVec 6) (s : State) : Host.Outcome State Fault Refusal :=
  .next (s.memWrite (s.baseRel base off) (s.reg sr))

end Sys2Proof.Machine
end

