-- ==== Sys2Proof/Machine/Trap.lean ====
section
/-! DEFINITION. TRAP and the system routines (44_trap.md). A routine runs to its end inside the one step; none writes
COND, memory or R7 (R178).

PUTS and PUTSP scan memory until a terminator. The scan is written as R173 and R175 give it, by recursion on a number of
reads that R180 says is always enough; the model does not cut a scan short (log 6). -/

namespace Sys2Proof.Machine

/-- GETC (R171); with no character the step is held (R179). -/
def execTrapGetc (s : State) : Host.Outcome State Fault Refusal :=
  match s.kbdTake with
  | (some c, t) => .next (t.setReg 0 (zext c))
  | (none, t) => .next t.hold

/-- OUT (R172): the low byte of R0. -/
def execTrapOut (s : State) : Host.Outcome State Fault Refusal :=
  .next (s.out (lowByte (s.reg 0)))

/-- PUTS's loop (R173) from address `a`, with at most `n` reads. -/
def putsScan : Nat → Word → State → Option State
  | 0, _, _ => none
  | n + 1, a, s =>
    let w := s.memRead a
    if w.1 = 0x0000#16 then some w.2 else putsScan n (a + 1) (w.2.out (lowByte w.1))

/-- R180: with n bytes in the input channel PUTS stops within (n + 2) x 65536 reads. -/
def putsReads (s : State) : Nat := (s.input.length + 2) * Config.memWords

/-- PUTS (R173). -/
def execTrapPuts (s : State) : Host.Outcome State Fault Refusal :=
  match putsScan (putsReads s) (s.reg 0) s with
  | some t => .next t
  | none => .fault .scanUnended

/-- IN (R174): on a held attempt nothing is written (D16); else the prompt, the echo, then R0. -/
def execTrapIn (s : State) : Host.Outcome State Fault Refusal :=
  match s.kbdTake with
  | (some c, t) => .next (((t.setOutput (t.output ++ t.config.inPrompt)).out c).setReg 0 (zext c))
  | (none, t) => .next t.hold

/-- PUTSP's loop (R175) from address `a`, with at most `n` reads: the low byte, then the high byte, up to the first
zero byte. -/
def putspScan : Nat → Word → State → Option State
  | 0, _, _ => none
  | n + 1, a, s =>
    let w := s.memRead a
    if lowByte w.1 = 0x00#8 then some w.2
    else if highByte w.1 = 0x00#8 then some (w.2.out (lowByte w.1))
    else putspScan n (a + 1) ((w.2.out (lowByte w.1)).out (highByte w.1))

/-- R180: PUTSP stops within 65536 reads. -/
def putspReads : Nat := Config.memWords

/-- PUTSP (R175). -/
def execTrapPutsp (s : State) : Host.Outcome State Fault Refusal :=
  match putspScan putspReads (s.reg 0) s with
  | some t => .next t
  | none => .fault .scanUnended

/-- HALT (R176). -/
def execTrapHalt (s : State) : Host.Outcome State Fault Refusal :=
  .next s.halt

/-- TRAP with a vector that has no routine (R177): UnknownTrapError, with the vector as detail. -/
def execTrap (ign : BitVec 4) (vect : BitVec 8) (s : State) : Host.Outcome State Fault Refusal :=
  .next (s.raiseFatal .unknownTrap (encode (.trap ign vect)) (zext vect))

end Sys2Proof.Machine
end

