-- ==== Sys2Proof/Machine/Dispatch.lean ====
section
/-! DEFINITION. One arm for each instruction. `exec` runs after the fetch: pc is the instruction's address + 1. -/

namespace Sys2Proof.Machine

def exec (i : Instr) (s : State) : Host.Outcome State Fault Refusal :=
  match i with
  | .br nzp off => Sys2Proof.Machine.execBr nzp off s
  | .addReg dr sr1 _ sr2 => Sys2Proof.Machine.execAddReg dr sr1 sr2 s
  | .addImm dr sr1 imm => Sys2Proof.Machine.execAddImm dr sr1 imm s
  | .ld dr off => Sys2Proof.Machine.execLd dr off s
  | .st sr off => Sys2Proof.Machine.execSt sr off s
  | .jsr off => Sys2Proof.Machine.execJsr off s
  | .jsrr _ base _ => Sys2Proof.Machine.execJsrr base s
  | .andReg dr sr1 _ sr2 => Sys2Proof.Machine.execAndReg dr sr1 sr2 s
  | .andImm dr sr1 imm => Sys2Proof.Machine.execAndImm dr sr1 imm s
  | .ldr dr base off => Sys2Proof.Machine.execLdr dr base off s
  | .str sr base off => Sys2Proof.Machine.execStr sr base off s
  | .illegal8 ign => Sys2Proof.Machine.execIllegal8 ign s
  | .not dr sr _ => Sys2Proof.Machine.execNot dr sr s
  | .ldi dr off => Sys2Proof.Machine.execLdi dr off s
  | .sti sr off => Sys2Proof.Machine.execSti sr off s
  | .jmp _ base _ => Sys2Proof.Machine.execJmp base s
  | .ret _ _ => Sys2Proof.Machine.execRet s
  | .illegalD ign => Sys2Proof.Machine.execIllegalD ign s
  | .lea dr off => Sys2Proof.Machine.execLea dr off s
  | .trapGetc _ => Sys2Proof.Machine.execTrapGetc s
  | .trapOut _ => Sys2Proof.Machine.execTrapOut s
  | .trapPuts _ => Sys2Proof.Machine.execTrapPuts s
  | .trapIn _ => Sys2Proof.Machine.execTrapIn s
  | .trapPutsp _ => Sys2Proof.Machine.execTrapPutsp s
  | .trapHalt _ => Sys2Proof.Machine.execTrapHalt s
  | .trap ign vect => Sys2Proof.Machine.execTrap ign vect s

end Sys2Proof.Machine
end

