-- ==== Sys2Proof/Machine/Step.lean ====
section
/-! DEFINITION. One step of the core (30_encoding.md R81; 70_reset_and_hazards.md R264). -/

namespace Sys2Proof.Machine

/-- `step()`: on a halted core nothing happens (R264, D23; log 8); else fetch, pc + 1, decode, dispatch (R81). What
`step` reports to the host is `hostStep` of Machine/HostPort.lean. -/
def step (s : State) : Host.Outcome State Fault Refusal :=
  if s.running then exec (decode s.fetch.1) s.fetch.2 else .next s

/-- Where `withFetchWord` puts the word: pc, or the first plain address after it, since a fetch from a device address
reads the device and not a stored word (20_memory.md R61). At most two addresses are devices (R55). -/
def State.fetchSlot (s : State) : Word :=
  if s.isDevice s.pc then (if s.isDevice (s.pc + 1) then s.pc + 2 else s.pc + 1) else s.pc

/-- `s` with the instruction word `w` where the next step fetches, and RUNNING, as a `load` leaves the core (R261;
log 9): the very next step runs it. -/
def State.withFetchWord (s : State) (nbits w : Nat) : State :=
  ((s.setPc s.fetchSlot).setMem (s.mem.write s.fetchSlot (BitVec.ofNat 16 (w % 2 ^ nbits)))).setRunning true

end Sys2Proof.Machine
end

