-- ==== Sys2Proof/Machine/HostPort.lean ====
section
/-! DEFINITION. The host's commands (70_reset_and_hazards.md R260 to R270, R276). They run only between steps (R270), so
each is a function on the state between two steps; `new` is `State.new`. -/

namespace Sys2Proof.Machine

/-! ### load -/

/-- The three errors of 60_exceptions.md R220. -/
inductive CoreError where
  | imageFormat
  | illegalOpcode
  | unknownTrap
  deriving DecidableEq, Repr

/-- The numeric codes, the spec's own (R220, D25). -/
def CoreError.code : CoreError → Nat
  | .imageFormat => 1
  | .illegalOpcode => 2
  | .unknownTrap => 3

/-- The error a fault record is about. -/
def FatalKind.error : FatalKind → CoreError
  | .illegalOpcode => .illegalOpcode
  | .unknownTrap => .unknownTrap

/-- What `load` returns (R261). -/
inductive LoadResult where
  | ok (origin : Word)
  | err (e : CoreError)
  deriving DecidableEq, Repr

/-- The big-endian words of an image (R261); none where the byte count is odd (R262). -/
def imageWords : List Byte → Option (List Word)
  | [] => some []
  | [_] => none
  | hi :: lo :: rest => (imageWords rest).map (fun ws => (hi ++ lo) :: ws)

/-- The raw stores of the image's program words, upward from `a` modulo 2^16, in order (R261, R263). -/
def Memory.writeWords (m : Memory) (a : Word) : List Word → Memory
  | [] => m
  | w :: ws => Memory.writeWords (m.write a w) (a + 1) ws

/-- `load(bytes)` (R261, R262): on success it writes the image words, pc, RUNNING and fault, and nothing else (D21). -/
def State.load (s : State) (bytes : List Byte) : LoadResult × State :=
  match imageWords bytes with
  | some (origin :: ws) =>
    (.ok origin, (((s.setMem (s.mem.writeWords origin ws)).setPc origin).setRunning true).setFault none)
  | some [] => (.err .imageFormat, s)
  | none => (.err .imageFormat, s)

/-! ### The channels and inspection -/

/-- `push_input(byte)` (R268). -/
def State.pushInput (s : State) (b : Byte) : State := s.setInput (s.input ++ [b])

/-- `pop_output()` (R269). -/
def State.popOutput (s : State) : Option Byte × State :=
  match s.output with
  | [] => (none, s)
  | b :: rest => (some b, s.setOutput rest)

/-- What `snapshot` returns (R266); `flags` is COND as R26 lays it out (D30). -/
structure Snapshot where
  registers : Vector Word 8
  flags : BitVec 3
  pc : Word
  running : Bool
  deriving DecidableEq, Repr

/-- `snapshot()` (R266): it has no effect, so it answers no state. -/
def State.snapshot (s : State) : Snapshot :=
  { registers := s.regs, flags := s.cond, pc := s.pc, running := s.running }

/-- `read_memory_range(start, len)` (R267): raw words, wrapping modulo 2^16, with no effect. -/
def State.readMemoryRange (s : State) (start : Word) : Nat → List Word
  | 0 => []
  | n + 1 => s.mem.read start :: State.readMemoryRange s (start + 1) n

/-! ### step and run as the host sees them -/

/-- `Result<StepOutcome, FatalError>` (R264). -/
inductive StepReport where
  | continued
  | halted
  | err (r : FaultRecord)
  deriving DecidableEq, Repr

/-- What a step left behind, as a report; `t` is the state a step gives from a state with no fault record. -/
def reportOf (t : State) : StepReport :=
  if t.running then .continued
  else match t.fault with
    | some r => .err r
    | none => .halted

/-- The report of `step()` from `s` (R264; 60_exceptions.md R225). A step never reads the fault record, so the step
from `s` without it shows whether THIS step raised an error: an old record is not reported again (D23). -/
def stepReport (s : State) : Host.Outcome StepReport Fault Refusal :=
  match step (s.setFault none) with
  | .next t => .next (reportOf t)
  | .fault r => .fault r
  | .refused r => .refused r

/-- The command `step()`: the next state with its report (R264). -/
def hostStep (s : State) : Host.Outcome (StepReport × State) Fault Refusal :=
  match stepReport s, step s with
  | .next r, .next t => .next (r, t)
  | .fault f, _ => .fault f
  | .refused r, _ => .refused r
  | .next _, .fault f => .fault f
  | .next _, .refused r => .refused r

/-- One point between two steps of `run` (R265, R270): the bytes the host pushes there, how many times it pops, and
what the stop signal reads when `run` checks it. -/
structure RunPoint where
  pushed : List Byte
  pops : Nat
  stop : Bool
  deriving DecidableEq, Repr

/-- `n` pops in a row: what they return, and the state after. -/
def State.popMany : Nat → State → List (Option Byte) × State
  | 0, s => ([], s)
  | n + 1, s =>
    let p := s.popOutput
    let r := State.popMany n p.2
    (p.1 :: r.1, r.2)

/-- The host's actions at one point: the pushes in order, then the pops. -/
def State.atPoint (s : State) (p : RunPoint) : List (Option Byte) × State :=
  State.popMany p.pops (p.pushed.foldl State.pushInput s)

/-- What `run` returns (R265); `unfinished` where the listed points end before `run` does. -/
inductive RunResult where
  | ok
  | err (r : FaultRecord)
  | unfinished
  deriving DecidableEq, Repr

/-- `run(stop_signal)` (R265) over the points between its steps: at each point the host's actions happen, then the
signal is checked, before the step (D24). It answers the result, the pops' results and the state (log 9). -/
def run : List RunPoint → State → Host.Outcome (RunResult × List (Option Byte) × State) Fault Refusal
  | [], s => .next (.unfinished, [], s)
  | p :: ps, s =>
    let here := s.atPoint p
    if p.stop then .next (.ok, here.1, here.2)
    else match hostStep here.2 with
      | .next (.err r, t) => .next (.err r, here.1, t)
      | .next (.halted, t) => .next (.ok, here.1, t)
      | .next (.continued, t) =>
        match run ps t with
        | .next (r, popped, u) => .next (r, here.1 ++ popped, u)
        | .fault f => .fault f
        | .refused r => .refused r
      | .fault f => .fault f
      | .refused r => .refused r

/-- The commands that change the state (R276); `step` stands for `run` too, which is steps and checks. -/
inductive HostCommand where
  | load (bytes : List Byte)
  | step
  | pushInput (b : Byte)
  | popOutput
  deriving DecidableEq, Repr

/-- The state after one command. -/
def HostCommand.apply (c : HostCommand) (s : State) : Host.Outcome State Fault Refusal :=
  match c with
  | .load bytes => .next (s.load bytes).2
  | .step => Sys2Proof.Machine.step s
  | .pushInput b => .next (s.pushInput b)
  | .popOutput => .next s.popOutput.2

end Sys2Proof.Machine
end

