-- ==== Sys2Proof/Safety.lean ====
section
/-! DEFINITION. The terms the statements are written in: the invariant of the core, how a run ends, and what it means
that an operation leaves a part of the state alone. -/

namespace Sys2Proof.Machine

/-! ### The invariant -/

/-- COND holds exactly one of the three flags (10_state.md R27). -/
abbrev oneHot (c : BitVec 3) : Prop := c = 0b100#3 ∨ c = 0b010#3 ∨ c = 0b001#3

/-- A fault record is one a fatal error can write (R33; 60_exceptions.md R222, R223): kind, opcode, vector and detail
agree with the instruction word. -/
def FaultRecord.consistent (r : FaultRecord) : Prop :=
  match r.kind with
  | .illegalOpcode => (opcodeOf r.ir = .op1000 ∨ opcodeOf r.ir = .op1101) ∧ r.detail = zext (field r.ir 12 4)
  | .unknownTrap => opcodeOf r.ir = .trap ∧ knownVector (field r.ir 0 8) = false ∧ r.detail = zext (field r.ir 0 8)

/-- What every state the core can reach satisfies: memory in its canonical form, one flag in COND, two different
device addresses, and a fault record only on a halted core, with pc just past the faulting instruction (R224). -/
structure Inv (s : State) : Prop where
  memCanonical : s.mem.wf = true
  condOneHot : oneHot s.cond
  devicesDiffer : s.config.wf
  faultHalted : ∀ r, s.fault = some r → s.running = false ∧ s.pc = r.faultPc + 1 ∧ r.consistent

/-! ### How a run ends (70_reset_and_hazards.md R273) -/

/-- "the core has RUNNING = 0". -/
def State.ended (s : State) : Prop := s.running = false

/-- "With fault = None the end is a normal halt". -/
def State.normalHalt (s : State) : Prop := s.running = false ∧ s.fault = none

/-- "With fault set it is a fatal stop". -/
def State.fatalStop (s : State) : Prop := s.running = false ∧ s.fault ≠ none

/-- A state that some list of host commands reaches from `new`. -/
inductive Reachable : State → Prop where
  | new (c : Config) (h : c.wf) : Reachable (State.new c)
  | command (c : HostCommand) (s t : State) (hs : Reachable s) (h : c.apply s = .next t) : Reachable t

/-- A state that host commands reach from `s` with no load among them that succeeds. `snapshot` and
`read_memory_range` answer no state, and `run` is steps with pushes and pops between them. -/
inductive ReachedWithoutLoad (s : State) : State → Prop where
  | start : ReachedWithoutLoad s s
  | command (c : HostCommand) (t u : State) (ht : ReachedWithoutLoad s t)
      (fails : ∀ bytes, c = .load bytes → ∃ e, (t.load bytes).1 = .err e) (h : c.apply t = .next u) :
      ReachedWithoutLoad s u

/-! ### Parts of the state that stay as they were -/

/-- Every general register but those in `ds` reads as before. -/
def SameRegsBut (ds : List Reg) (s t : State) : Prop := ∀ r, r ∉ ds → t.reg r = s.reg r

/-- Every word of memory reads as before. -/
def SameMem (s t : State) : Prop := ∀ a, t.mem.read a = s.mem.read a

/-- Every word of memory outside the one at `a` reads as before. -/
def SameMemBut (a : Word) (s t : State) : Prop := ∀ b, b ≠ a → t.mem.read b = s.mem.read b

/-- The keyboard: latch, input channel and the draw counter as before. -/
def SameKeyboard (s t : State) : Prop :=
  t.kbReady = s.kbReady ∧ t.kbData = s.kbData ∧ t.input = s.input ∧ t.kbdrDraws = s.kbdrDraws

/-- RUNNING and the fault record as before. -/
def SameStatus (s t : State) : Prop := t.running = s.running ∧ t.fault = s.fault

/-! ### The scans of PUTS and PUTSP as their pseudocode gives them, with no bound on the reads -/

/-- PUTS's loop (44_trap.md R173) from address `a` in state `s` ends in state `t`. -/
inductive PutsRuns : Word → State → State → Prop where
  | stop (a : Word) (s : State) (h : (s.memRead a).1 = 0x0000#16) : PutsRuns a s (s.memRead a).2
  | more (a : Word) (s t : State) (h : (s.memRead a).1 ≠ 0x0000#16)
      (rest : PutsRuns (a + 1) ((s.memRead a).2.out (lowByte (s.memRead a).1)) t) : PutsRuns a s t

/-- PUTSP's loop (R175) from address `a` in state `s` ends in state `t`. -/
inductive PutspRuns : Word → State → State → Prop where
  | stopLow (a : Word) (s : State) (h : lowByte (s.memRead a).1 = 0x00#8) : PutspRuns a s (s.memRead a).2
  | stopHigh (a : Word) (s : State) (h : lowByte (s.memRead a).1 ≠ 0x00#8) (h' : highByte (s.memRead a).1 = 0x00#8) :
      PutspRuns a s ((s.memRead a).2.out (lowByte (s.memRead a).1))
  | more (a : Word) (s t : State) (h : lowByte (s.memRead a).1 ≠ 0x00#8) (h' : highByte (s.memRead a).1 ≠ 0x00#8)
      (rest : PutspRuns (a + 1)
        (((s.memRead a).2.out (lowByte (s.memRead a).1)).out (highByte (s.memRead a).1)) t) : PutspRuns a s t

end Sys2Proof.Machine
end

