-- ==== Sys2Proof/Certificates/Slice0/Obligations.lean ====
section
/-! DEFINITION. The statements. Each is a rule of spec/, or follows from rules of spec/, about the machine of
Sys2Proof/Machine. Where a statement rests on a decision D<n> of 92_eei_decisions.md (the spec's own choice), its
docstring names it. In a meaning pc is the fetched address + 1 (30_encoding.md R81). -/

open Sys2Proof Sys2Proof.Machine

/-! ### Encoding -/

/-- 30_encoding.md R84, R94: the decoder reads every well-formed instruction back from its word, with every operand at
every value of its field. -/
def Obligations.DecodeReadsBackEncode : Prop :=
  ∀ i : Instr, i.wellFormed = true → decode (encode i) = i

/-- R82, R94: every word selects exactly one instruction: it decodes to a well-formed one whose word it is, and no
other well-formed instruction has this word. -/
def Obligations.EveryWordIsOneInstruction : Prop :=
  ∀ w : Word, (decode w).wellFormed = true ∧ encode (decode w) = w ∧
    ∀ i : Instr, i.wellFormed = true → encode i = w → i = decode w

/-- The opcode table's rows (R83, R84, R90): a word that matches a row's match under its mask decodes to that row, with
each field where R83 puts it. JMP yields to RET and TRAP to its six named rows. The polarity of the mode bits and opcode
1000 are the spec's decisions D28, D29 and D12. -/
def Obligations.TableRowsDecode : Prop :=
  ∀ w : Word,
    (w &&& 0xF000 = 0x0000 → decode w = .br (w.extractLsb 11 9) (w.extractLsb 8 0)) ∧
    (w &&& 0xF020 = 0x1000 → decode w =
      .addReg (w.extractLsb 11 9).toFin (w.extractLsb 8 6).toFin (w.extractLsb 4 3) (w.extractLsb 2 0).toFin) ∧
    (w &&& 0xF020 = 0x1020 → decode w =
      .addImm (w.extractLsb 11 9).toFin (w.extractLsb 8 6).toFin (w.extractLsb 4 0)) ∧
    (w &&& 0xF000 = 0x2000 → decode w = .ld (w.extractLsb 11 9).toFin (w.extractLsb 8 0)) ∧
    (w &&& 0xF000 = 0x3000 → decode w = .st (w.extractLsb 11 9).toFin (w.extractLsb 8 0)) ∧
    (w &&& 0xF800 = 0x4800 → decode w = .jsr (w.extractLsb 10 0)) ∧
    (w &&& 0xF800 = 0x4000 → decode w =
      .jsrr (w.extractLsb 10 9) (w.extractLsb 8 6).toFin (w.extractLsb 5 0)) ∧
    (w &&& 0xF020 = 0x5000 → decode w =
      .andReg (w.extractLsb 11 9).toFin (w.extractLsb 8 6).toFin (w.extractLsb 4 3) (w.extractLsb 2 0).toFin) ∧
    (w &&& 0xF020 = 0x5020 → decode w =
      .andImm (w.extractLsb 11 9).toFin (w.extractLsb 8 6).toFin (w.extractLsb 4 0)) ∧
    (w &&& 0xF000 = 0x6000 → decode w =
      .ldr (w.extractLsb 11 9).toFin (w.extractLsb 8 6).toFin (w.extractLsb 5 0)) ∧
    (w &&& 0xF000 = 0x7000 → decode w =
      .str (w.extractLsb 11 9).toFin (w.extractLsb 8 6).toFin (w.extractLsb 5 0)) ∧
    (w &&& 0xF000 = 0x8000 → decode w = .illegal8 (w.extractLsb 11 0)) ∧
    (w &&& 0xF000 = 0x9000 → decode w =
      .not (w.extractLsb 11 9).toFin (w.extractLsb 8 6).toFin (w.extractLsb 5 0)) ∧
    (w &&& 0xF000 = 0xA000 → decode w = .ldi (w.extractLsb 11 9).toFin (w.extractLsb 8 0)) ∧
    (w &&& 0xF000 = 0xB000 → decode w = .sti (w.extractLsb 11 9).toFin (w.extractLsb 8 0)) ∧
    (w &&& 0xF000 = 0xC000 → w &&& 0xF1C0 ≠ 0xC1C0 → decode w =
      .jmp (w.extractLsb 11 9) (w.extractLsb 8 6).toFin (w.extractLsb 5 0)) ∧
    (w &&& 0xF1C0 = 0xC1C0 → decode w = .ret (w.extractLsb 11 9) (w.extractLsb 5 0)) ∧
    (w &&& 0xF000 = 0xD000 → decode w = .illegalD (w.extractLsb 11 0)) ∧
    (w &&& 0xF000 = 0xE000 → decode w = .lea (w.extractLsb 11 9).toFin (w.extractLsb 8 0)) ∧
    (w &&& 0xF0FF = 0xF020 → decode w = .trapGetc (w.extractLsb 11 8)) ∧
    (w &&& 0xF0FF = 0xF021 → decode w = .trapOut (w.extractLsb 11 8)) ∧
    (w &&& 0xF0FF = 0xF022 → decode w = .trapPuts (w.extractLsb 11 8)) ∧
    (w &&& 0xF0FF = 0xF023 → decode w = .trapIn (w.extractLsb 11 8)) ∧
    (w &&& 0xF0FF = 0xF024 → decode w = .trapPutsp (w.extractLsb 11 8)) ∧
    (w &&& 0xF0FF = 0xF025 → decode w = .trapHalt (w.extractLsb 11 8)) ∧
    (w &&& 0xF000 = 0xF000 → (w.extractLsb 7 0 < 0x20 ∨ 0x25 < w.extractLsb 7 0) → decode w =
      .trap (w.extractLsb 11 8) (w.extractLsb 7 0))

/-- Words written out from the spec's own examples (40 to 45, 95_test_vectors.md) decode to the instructions they stand
for. A sanity statement. -/
def Obligations.SpecWordsDecode : Prop :=
  decode 0x1042 = .addReg 0 1 0 2 ∧ decode 0x127F = .addImm 1 1 0b11111 ∧ decode 0x05FD = .br 0b010 0b111111101 ∧
  decode 0xC1C0 = .ret 0 0 ∧ decode 0x4080 = .jsrr 0 2 0 ∧ decode 0xA206 = .ldi 1 6 ∧
  decode 0x733F = .str 1 4 0b111111 ∧ decode 0xFF25 = .trapHalt 0b1111 ∧ decode 0xF026 = .trap 0 0x26 ∧
  decode 0x8000 = .illegal8 0 ∧ decode 0xDFFF = .illegalD 0xFFF

/-- The bits of a word that R91 says are ignored, by its row. -/
def ignoredBits (w : Word) : Word :=
  match decode w with
  | .addReg _ _ _ _ => 0x0018
  | .andReg _ _ _ _ => 0x0018
  | .not _ _ _ => 0x003F
  | .jmp _ _ _ => 0x0E3F
  | .ret _ _ => 0x0E3F
  | .jsrr _ _ _ => 0x063F
  | .trapGetc _ => 0x0F00
  | .trapOut _ => 0x0F00
  | .trapPuts _ => 0x0F00
  | .trapIn _ => 0x0F00
  | .trapPutsp _ => 0x0F00
  | .trapHalt _ => 0x0F00
  | _ => 0x0000

/-- R91 (decision D11): two words of one row that differ only in ignored bits do the same. The fatal words are left out:
there the fault record keeps the word (R33). -/
def Obligations.IgnoredBitsChangeNothing : Prop :=
  ∀ (w w' : Word) (s : State), (w ^^^ w') &&& ~~~ ignoredBits w = 0 → exec (decode w) s = exec (decode w') s

/-! ### Numbers -/

/-- 00_scope.md R11: `sext_N` and `zext_N`, for every field width up to 16. -/
def Obligations.ExtensionFollowsItsFormula : Prop :=
  ∀ (n : Nat) (v : BitVec n), 0 < n → n ≤ 16 →
    sext v = (if v.getLsbD (n - 1) then v.setWidth 16 ||| (0xFFFF#16 <<< n) else v.setWidth 16) ∧
    (zext v).toNat = v.toNat

/-- 30_encoding.md R87: the two address sums as integers modulo 2^16; pc is the fetched address + 1. -/
def Obligations.EffectiveAddressesWrap : Prop :=
  ∀ (s : State) (n : Nat) (off : BitVec n) (base : Reg) (off6 : BitVec 6), n ≤ 16 →
    ((s.fetch.2.pcRel off).toNat : Int) = ((s.pc.toNat : Int) + 1 + off.toInt) % 65536 ∧
    ((s.fetch.2.baseRel base off6).toNat : Int) = (((s.reg base).toNat : Int) + off6.toInt) % 65536

/-- 10_state.md R28 (the places of N, Z and P are decision D2): `setcc(v)` writes N, Z or P by bit 15 and zero, and
nothing else; as a signed number v is negative, zero or positive. -/
def Obligations.SetccClassifies : Prop :=
  ∀ (s : State) (v : Word),
    s.setcc v = { s with cond := if v.getLsbD 15 then 0b100 else if v = 0 then 0b010 else 0b001 } ∧
    ((s.setcc v).cond = 0b100 ↔ v.toInt < 0) ∧ ((s.setcc v).cond = 0b010 ↔ v.toInt = 0) ∧
    ((s.setcc v).cond = 0b001 ↔ 0 < v.toInt)

/-! ### Construction, the step, the invariant -/

/-- 70_reset_and_hazards.md R260, 10_state.md R38: what `new()` leaves, for every value of the parameters. COND = Z and
RUNNING = 0 are the spec's decisions D3 and D20; the defaults of State.reset are log 2 (PRESUMED). The draw counter is
the model's own and nothing is said of it. -/
def Obligations.NewHoldsConstructionValues : Prop :=
  (∀ c : Config,
    (∀ r, (State.new c).reg r = 0x0000) ∧ (State.new c).pc = 0x0000 ∧ (State.new c).cond = 0b010 ∧
    (State.new c).running = false ∧ (∀ a, (State.new c).mem.read a = 0x0000) ∧ (State.new c).kbReady = false ∧
    (State.new c).kbData = 0x00 ∧ (State.new c).input = [] ∧ (State.new c).output = [] ∧
    (State.new c).fault = none ∧ (State.new c).config = c) ∧
  State.reset = State.new Config.default

/-- The invariant holds after construction, for parameters R8 allows, and at reset. -/
def Obligations.NewSatisfiesInvariant : Prop :=
  (∀ c : Config, c.wf → Inv (State.new c)) ∧ Inv State.reset

/-- Every step keeps the invariant, from every state that has it: memory stays canonical, COND holds exactly one flag
(10_state.md R27), the parameters stay legal, and a fault record stands only on a halted core, with pc one past the
faulting instruction and kind, opcode, vector and detail in agreement (R33; 60_exceptions.md R224). -/
def Obligations.StepKeepsInvariant : Prop :=
  ∀ s t : State, Inv s → step s = .next t → Inv t

/-- The host's commands keep the invariant too. -/
def Obligations.HostCommandsKeepInvariant : Prop :=
  ∀ (s : State) (bytes : List Byte) (b : Byte), Inv s →
    Inv (s.load bytes).2 ∧ Inv (s.pushInput b) ∧ Inv s.popOutput.2

/-- 10_state.md R27: "COND always holds exactly one of the three legal values", and the rest of the invariant, in every
state that commands reach from `new`. -/
def Obligations.ReachableStatesSatisfyInvariant : Prop :=
  ∀ s : State, Reachable s → Inv s

/-- No step is refused and none faults: every word decodes (30_encoding.md R94), no access fails (20_memory.md R52,
60_exceptions.md R221), PUTS and PUTSP end (44_trap.md R180), and a fatal error is a next state (log 7). -/
def Obligations.StepAlwaysAnswersNext : Prop :=
  ∀ s : State, s.config.wf → ∃ t, step s = .next t

/-- 30_encoding.md R81: on a running core a step reads the word at pc through MemRead, advances pc by one and runs the
decoded instruction. At a plain address that holds the word of a well-formed instruction, it runs that instruction on
the state with pc advanced. -/
def Obligations.StepRunsDecodedInstruction : Prop :=
  ∀ s : State, s.running = true →
    step s = exec (decode (s.memRead s.pc).1) { (s.memRead s.pc).2 with pc := s.pc + 1 } ∧
    ∀ i : Instr, i.wellFormed = true → s.isDevice s.pc = false → s.mem.read s.pc = encode i →
      step s = exec i { s with pc := s.pc + 1 }

/-! ### Operate instructions -/

/-- 40_operate.md R110 (the mode bit's value is decision D28, the ignored ir[4:3] D11). -/
def Obligations.AddRegisterWritesSumAndFlags : Prop :=
  (∀ w : Word, w &&& 0xF020 = 0x1000 →
    decode w = .addReg (regField w 9) (regField w 6) (field w 3 2) (regField w 0)) ∧
  ∀ (dr sr1 sr2 : Reg) (ign : BitVec 2) (s : State),
    exec (.addReg dr sr1 ign sr2) s = .next { s with
      regs := s.regs.set dr (s.reg sr1 + s.reg sr2), cond := condOf (s.reg sr1 + s.reg sr2) }

/-- R111 (mode bit: D28). -/
def Obligations.AddImmediateWritesSumAndFlags : Prop :=
  (∀ w : Word, w &&& 0xF020 = 0x1020 → decode w = .addImm (regField w 9) (regField w 6) (field w 0 5)) ∧
  ∀ (dr sr1 : Reg) (imm : BitVec 5) (s : State),
    exec (.addImm dr sr1 imm) s = .next { s with
      regs := s.regs.set dr (s.reg sr1 + sext imm), cond := condOf (s.reg sr1 + sext imm) }

/-- R112 (mode bit: D28, ignored bits: D11). -/
def Obligations.AndRegisterWritesBitsAndFlags : Prop :=
  (∀ w : Word, w &&& 0xF020 = 0x5000 →
    decode w = .andReg (regField w 9) (regField w 6) (field w 3 2) (regField w 0)) ∧
  ∀ (dr sr1 sr2 : Reg) (ign : BitVec 2) (s : State),
    exec (.andReg dr sr1 ign sr2) s = .next { s with
      regs := s.regs.set dr (s.reg sr1 &&& s.reg sr2), cond := condOf (s.reg sr1 &&& s.reg sr2) }

/-- R113 (mode bit: D28), with its corner cases: #0 gives zero and Z, #-1 copies. -/
def Obligations.AndImmediateWritesBitsAndFlags : Prop :=
  (∀ w : Word, w &&& 0xF020 = 0x5020 → decode w = .andImm (regField w 9) (regField w 6) (field w 0 5)) ∧
  (∀ (dr sr1 : Reg) (imm : BitVec 5) (s : State),
    exec (.andImm dr sr1 imm) s = .next { s with
      regs := s.regs.set dr (s.reg sr1 &&& sext imm), cond := condOf (s.reg sr1 &&& sext imm) }) ∧
  ∀ (dr sr1 : Reg) (s : State),
    exec (.andImm dr sr1 0) s = .next { s with regs := s.regs.set dr 0x0000, cond := 0b010 } ∧
    exec (.andImm dr sr1 0b11111) s = .next { s with regs := s.regs.set dr (s.reg sr1), cond := condOf (s.reg sr1) }

/-- R114; that ir[5:0] is ignored is decision D11. -/
def Obligations.NotWritesComplementAndFlags : Prop :=
  (∀ w : Word, w &&& 0xF000 = 0x9000 → decode w = .not (regField w 9) (regField w 6) (field w 0 6)) ∧
  ∀ (dr sr : Reg) (ign : BitVec 6) (s : State),
    exec (.not dr sr ign) s = .next { s with
      regs := s.regs.set dr (~~~ s.reg sr), cond := condOf (~~~ s.reg sr) }

/-- The frame of ADD, AND, NOT (40_operate.md: "None of these instructions accesses memory") and LEA (42_load.md R143):
DR and COND change, every other register, every word of memory, pc, the keyboard, the output channel, RUNNING, the fault
record and the parameters stay. -/
def Obligations.OperateAndLeaFrame : Prop :=
  ∀ (dr sr1 sr2 : Reg) (i2 : BitVec 2) (imm : BitVec 5) (i6 : BitVec 6) (off : BitVec 9) (s t : State),
    (exec (.addReg dr sr1 i2 sr2) s = .next t ∨ exec (.addImm dr sr1 imm) s = .next t ∨
      exec (.andReg dr sr1 i2 sr2) s = .next t ∨ exec (.andImm dr sr1 imm) s = .next t ∨
      exec (.not dr sr1 i6) s = .next t ∨ exec (.lea dr off) s = .next t) →
    SameRegsBut [dr] s t ∧ SameMem s t ∧ t.mem = s.mem ∧ t.pc = s.pc ∧ SameKeyboard s t ∧ t.output = s.output ∧
      SameStatus s t ∧ t.config = s.config

/-! ### Control transfer -/

/-- 41_control.md R120 (COND's layout is decision D2): the branch is taken when a requested bit matches the flag. With
nzp = 000 it never is; with nzp = 111 it always is while COND holds one flag (10_state.md R27). -/
def Obligations.BrTakenWhenRequestedFlagIsSet : Prop :=
  ∀ (nzp : BitVec 3) (off : BitVec 9) (s : State),
    exec (.br nzp off) s = .next { s with pc := if nzp &&& s.cond ≠ 0b000 then s.pc + sext off else s.pc } ∧
    exec (.br 0b000 off) s = .next s ∧
    (oneHot s.cond → exec (.br 0b111 off) s = .next { s with pc := s.pc + sext off })

/-- R121 (the ignored bits are decision D11), for every BaseR. -/
def Obligations.JmpGoesToRegister : Prop :=
  ∀ (ignHi : BitVec 3) (base : Reg) (ignLo : BitVec 6) (s : State),
    exec (.jmp ignHi base ignLo) s = .next { s with pc := s.reg base }

/-- R122 (ignored bits: D11): RET is JMP with BaseR = 7, and after a JSR or JSRR whose R7 is still there it returns
to the instruction after the call. -/
def Obligations.RetReturnsThroughR7 : Prop :=
  (∀ w : Word, w &&& 0xF1C0 = 0xC1C0 → decode w = .ret (field w 9 3) (field w 0 6)) ∧
  decode 0xC1C0 = .ret 0 0 ∧
  (∀ (ignHi : BitVec 3) (ignLo : BitVec 6) (s : State),
    exec (.ret ignHi ignLo) s = .next { s with pc := s.reg 7 } ∧
    exec (.ret ignHi ignLo) s = exec (.jmp ignHi 7 ignLo) s) ∧
  ∀ (off : BitVec 11) (i2 : BitVec 2) (base : Reg) (i6 : BitVec 6) (ignHi : BitVec 3) (ignLo : BitVec 6) (s t u : State),
    (exec (.jsr off) s = .next t ∨ exec (.jsrr i2 base i6) s = .next t) → u.reg 7 = t.reg 7 →
    exec (.ret ignHi ignLo) u = .next { u with pc := s.pc }

/-- R123 and R124 (the mode bit's polarity is decision D29): R7 takes the return address, then pc the target. JSRR
reads its base after R7 is written, so `JSRR R7` goes on at the next instruction. -/
def Obligations.JsrAndJsrrLinkThenJump : Prop :=
  ∀ (off : BitVec 11) (ignHi : BitVec 2) (base : Reg) (ignLo : BitVec 6) (s : State),
    exec (.jsr off) s = .next { s with regs := s.regs.set 7 s.pc, pc := s.pc + sext off } ∧
    exec (.jsrr ignHi base ignLo) s = .next { s with
      regs := s.regs.set 7 s.pc, pc := if base = 7 then s.pc else s.reg base }

/-- The frame of the control transfers (41_control.md: "None of these instructions writes COND or accesses memory";
R119: the only link register is R7, written by JSR and JSRR). -/
def Obligations.ControlFrame : Prop :=
  ∀ (nzp ignHi : BitVec 3) (off : BitVec 9) (base : Reg) (ignLo : BitVec 6) (off11 : BitVec 11) (i2 : BitVec 2)
    (s t : State),
    ((exec (.br nzp off) s = .next t ∨ exec (.jmp ignHi base ignLo) s = .next t ∨
        exec (.ret ignHi ignLo) s = .next t) → SameRegsBut [] s t) ∧
    ((exec (.jsr off11) s = .next t ∨ exec (.jsrr i2 base ignLo) s = .next t) → SameRegsBut [7] s t) ∧
    ((exec (.br nzp off) s = .next t ∨ exec (.jmp ignHi base ignLo) s = .next t ∨
        exec (.ret ignHi ignLo) s = .next t ∨ exec (.jsr off11) s = .next t ∨
        exec (.jsrr i2 base ignLo) s = .next t) →
      SameMem s t ∧ t.mem = s.mem ∧ t.cond = s.cond ∧ SameKeyboard s t ∧ t.output = s.output ∧ SameStatus s t ∧
        t.config = s.config)

/-! ### Loads -/

/-- 42_load.md R140: LD reads through MemRead at pc + sext_9(PCoffset9). -/
def Obligations.LdLoadsPcRelative : Prop :=
  (∀ w : Word, w &&& 0xF000 = 0x2000 → decode w = .ld (regField w 9) (field w 0 9)) ∧
  ∀ (dr : Reg) (off : BitVec 9) (s : State),
    exec (.ld dr off) s = .next { (s.memRead (s.pc + sext off)).2 with
      regs := s.regs.set dr (s.memRead (s.pc + sext off)).1
      cond := condOf (s.memRead (s.pc + sext off)).1 }

/-- R141 (that both reads have device effects is decision D9): the pointer, then the data from the state after it. -/
def Obligations.LdiLoadsThroughPointer : Prop :=
  ∀ (dr : Reg) (off : BitVec 9) (s p : State) (ea : Word), s.memRead (s.pc + sext off) = (ea, p) →
    exec (.ldi dr off) s = .next { (p.memRead ea).2 with
      regs := s.regs.set dr (p.memRead ea).1
      cond := condOf (p.memRead ea).1 }

/-- R142. -/
def Obligations.LdrLoadsBaseRelative : Prop :=
  (∀ w : Word, w &&& 0xF000 = 0x6000 → decode w = .ldr (regField w 9) (regField w 6) (field w 0 6)) ∧
  ∀ (dr base : Reg) (off : BitVec 6) (s : State),
    exec (.ldr dr base off) s = .next { (s.memRead (s.reg base + sext off)).2 with
      regs := s.regs.set dr (s.memRead (s.reg base + sext off)).1
      cond := condOf (s.memRead (s.reg base + sext off)).1 }

/-- R143: LEA writes the address and sets the flags from it; it makes no memory access. -/
def Obligations.LeaWritesAddressAndFlags : Prop :=
  (∀ w : Word, w &&& 0xF000 = 0xE000 → decode w = .lea (regField w 9) (field w 0 9)) ∧
  ∀ (dr : Reg) (off : BitVec 9) (s : State),
    exec (.lea dr off) s = .next { s with
      regs := s.regs.set dr (s.pc + sext off), cond := condOf (s.pc + sext off) }

/-- The frame of LD, LDI and LDR: DR and COND change; memory, pc, the output channel, RUNNING, the fault record and the
parameters stay; the keyboard stays unless an address read is a device address (20_memory.md R53, R61), and then it is
as those reads leave it. -/
def Obligations.LoadFrame : Prop :=
  ∀ (dr base : Reg) (off : BitVec 9) (off6 : BitVec 6) (s t : State),
    ((exec (.ld dr off) s = .next t ∨ exec (.ldi dr off) s = .next t ∨ exec (.ldr dr base off6) s = .next t) →
      SameRegsBut [dr] s t ∧ SameMem s t ∧ t.mem = s.mem ∧ t.pc = s.pc ∧ t.output = s.output ∧ SameStatus s t ∧
        t.config = s.config) ∧
    (exec (.ld dr off) s = .next t → SameKeyboard (s.memRead (s.pcRel off)).2 t ∧
      (s.isDevice (s.pcRel off) = false → SameKeyboard s t)) ∧
    (exec (.ldr dr base off6) s = .next t → SameKeyboard (s.memRead (s.baseRel base off6)).2 t ∧
      (s.isDevice (s.baseRel base off6) = false → SameKeyboard s t)) ∧
    (exec (.ldi dr off) s = .next t →
      SameKeyboard ((s.memRead (s.pcRel off)).2.memRead (s.memRead (s.pcRel off)).1).2 t ∧
      (s.isDevice (s.pcRel off) = false → s.isDevice (s.mem.read (s.pcRel off)) = false → SameKeyboard s t))

/-! ### Stores -/

/-- 43_store.md R160: ST writes SR through MemWrite at pc + sext_9(PCoffset9). What MemWrite does at a device address
is in StoreFrame and KeyboardRegistersPollAndConsume. -/
def Obligations.StStoresPcRelative : Prop :=
  (∀ w : Word, w &&& 0xF000 = 0x3000 → decode w = .st (regField w 9) (field w 0 9)) ∧
  ∀ (sr : Reg) (off : BitVec 9) (s : State), ∃ t, exec (.st sr off) s = .next t ∧
    t = s.memWrite (s.pc + sext off) (s.reg sr) ∧
    (s.isDevice (s.pc + sext off) = false → t.mem.read (s.pc + sext off) = s.reg sr)

/-- R161 (that the pointer read has device effects is decision D9): the pointer first, then the store there. -/
def Obligations.StiStoresThroughPointer : Prop :=
  ∀ (sr : Reg) (off : BitVec 9) (s p : State) (ea : Word), s.memRead (s.pc + sext off) = (ea, p) →
    ∃ t, exec (.sti sr off) s = .next t ∧ t = p.memWrite ea (s.reg sr) ∧
      (s.isDevice ea = false → t.mem.read ea = s.reg sr) ∧ (s.isDevice ea = true → t = p)

/-- R162, with the same note on device addresses. -/
def Obligations.StrStoresBaseRelative : Prop :=
  (∀ w : Word, w &&& 0xF000 = 0x7000 → decode w = .str (regField w 9) (regField w 6) (field w 0 6)) ∧
  ∀ (sr base : Reg) (off : BitVec 6) (s : State), ∃ t, exec (.str sr base off) s = .next t ∧
    t = s.memWrite (s.reg base + sext off) (s.reg sr) ∧
    (s.isDevice (s.reg base + sext off) = false → t.mem.read (s.reg base + sext off) = s.reg sr)

/-- The frame of ST, STI and STR: "No store writes COND"; every word of memory but the one stored to reads as
before, and ST and STR change nothing at all where that one is a device address (20_memory.md R59, decision D8);
registers, pc, output, RUNNING, the fault record and the parameters stay; the keyboard stays but for STI's pointer
read at a device address. -/
def Obligations.StoreFrame : Prop :=
  ∀ (sr base : Reg) (off : BitVec 9) (off6 : BitVec 6) (s t : State),
    ((exec (.st sr off) s = .next t ∨ exec (.sti sr off) s = .next t ∨ exec (.str sr base off6) s = .next t) →
      SameRegsBut [] s t ∧ t.pc = s.pc ∧ t.cond = s.cond ∧ t.output = s.output ∧ SameStatus s t ∧
        t.config = s.config) ∧
    (exec (.st sr off) s = .next t → SameKeyboard s t ∧ SameMemBut (s.pcRel off) s t ∧
      (s.isDevice (s.pcRel off) = true → t = s)) ∧
    (exec (.str sr base off6) s = .next t → SameKeyboard s t ∧ SameMemBut (s.baseRel base off6) s t ∧
      (s.isDevice (s.baseRel base off6) = true → t = s)) ∧
    (exec (.sti sr off) s = .next t →
      SameKeyboard (s.memRead (s.pcRel off)).2 t ∧ SameMemBut (s.memRead (s.pcRel off)).1 s t ∧
      (s.isDevice (s.memRead (s.pcRel off)).1 = true → SameMem s t) ∧
      (s.isDevice (s.pcRel off) = false → SameKeyboard s t))

/-! ### TRAP -/

/-- 44_trap.md R171 and R174 (decisions D7, D16): the latched character first, else the head of the channel, goes to
R0. GETC writes no output; IN writes the prompt, whatever it is (D15), then the character. -/
def Obligations.GetcAndInTakeNextCharacter : Prop :=
  ∀ (ign : BitVec 4) (s : State),
    (s.kbReady = true →
      exec (.trapGetc ign) s = .next { s with
        regs := s.regs.set 0 (s.kbData.setWidth 16), kbReady := false } ∧
      exec (.trapIn ign) s = .next { s with
        regs := s.regs.set 0 (s.kbData.setWidth 16), kbReady := false
        output := s.output ++ s.config.inPrompt ++ [s.kbData] }) ∧
    (∀ b rest, s.kbReady = false → s.input = b :: rest →
      exec (.trapGetc ign) s = .next { s with
        regs := s.regs.set 0 (b.setWidth 16), kbData := b, input := rest } ∧
      exec (.trapIn ign) s = .next { s with
        regs := s.regs.set 0 (b.setWidth 16), kbData := b, input := rest
        output := s.output ++ s.config.inPrompt ++ [b] })

/-- R179 (decision D14): with no character GETC and IN are held. pc goes back to the TRAP's own address, nothing else
changes, and the same word, at a plain address, is fetched again and held again. -/
def Obligations.GetcAndInHoldWithoutInput : Prop :=
  ∀ (ign : BitVec 4) (s : State), s.kbReady = false → s.input = [] →
    exec (.trapGetc ign) s = .next { s with pc := s.pc - 1 } ∧
    exec (.trapIn ign) s = .next { s with pc := s.pc - 1 } ∧
    (s.running = true → s.isDevice s.pc = false →
      (s.mem.read s.pc = encode (.trapGetc ign) ∨ s.mem.read s.pc = encode (.trapIn ign)) →
      step s = .next s ∧ hostStep s = .next (.continued, s))

/-- R172. -/
def Obligations.OutAppendsLowByteOfR0 : Prop :=
  decode 0xF021 = .trapOut 0 ∧
  ∀ (ign : BitVec 4) (s : State),
    exec (.trapOut ign) s = .next { s with output := s.output ++ [(s.reg 0).extractLsb 7 0] }

/-- R173 and R180 (an inference, over decision D5): PUTS ends, and its end is that of the loop as R173 writes it,
which has no bound on its reads. -/
def Obligations.PutsRunsItsLoopToTheEnd : Prop :=
  ∀ (ign : BitVec 4) (s : State), s.config.wf →
    ∃ t, exec (.trapPuts ign) s = .next t ∧ PutsRuns (s.reg 0) s t

/-- R175 (decision D17) and R180: the same of PUTSP, for any parameters. That equal device addresses, which R8 forbids,
answer as the status register is the model's choice (log 5). -/
def Obligations.PutspRunsItsLoopToTheEnd : Prop :=
  ∀ (ign : BitVec 4) (s : State), ∃ t, exec (.trapPutsp ign) s = .next t ∧ PutspRuns (s.reg 0) s t

/-- R173 on a string of n plain words before a zero word: their low bytes, in order, and no other change. The addresses
wrap modulo 2^16. -/
def Obligations.PutsWritesPlainString : Prop :=
  ∀ (ign : BitVec 4) (s : State) (n : Nat), n < 65536 →
    (∀ k, k < n → s.isDevice (s.reg 0 + BitVec.ofNat 16 k) = false ∧
      s.mem.read (s.reg 0 + BitVec.ofNat 16 k) ≠ 0x0000) →
    s.isDevice (s.reg 0 + BitVec.ofNat 16 n) = false → s.mem.read (s.reg 0 + BitVec.ofNat 16 n) = 0x0000 →
    exec (.trapPuts ign) s = .next { s with
      output := s.output ++
        (List.range n).map (fun k => (s.mem.read (s.reg 0 + BitVec.ofNat 16 k)).extractLsb 7 0) }

/-- R175 on n plain words with no zero byte before a word with one: two characters a word, low byte first, then the low
byte of the last word unless it is the zero byte. -/
def Obligations.PutspWritesPackedString : Prop :=
  ∀ (ign : BitVec 4) (s : State) (n : Nat) (w : Word), n < 65536 →
    (∀ k, k < n → s.isDevice (s.reg 0 + BitVec.ofNat 16 k) = false ∧
      (s.mem.read (s.reg 0 + BitVec.ofNat 16 k)).extractLsb 7 0 ≠ 0x00 ∧
      (s.mem.read (s.reg 0 + BitVec.ofNat 16 k)).extractLsb 15 8 ≠ 0x00) →
    s.isDevice (s.reg 0 + BitVec.ofNat 16 n) = false → s.mem.read (s.reg 0 + BitVec.ofNat 16 n) = w →
    (w.extractLsb 7 0 = 0x00 ∨ w.extractLsb 15 8 = 0x00) →
    exec (.trapPutsp ign) s = .next { s with
      output := s.output ++
        (List.range n).flatMap (fun k => [(s.mem.read (s.reg 0 + BitVec.ofNat 16 k)).extractLsb 7 0,
          (s.mem.read (s.reg 0 + BitVec.ofNat 16 k)).extractLsb 15 8]) ++
        (if w.extractLsb 7 0 = 0x00 then [] else [w.extractLsb 7 0]) }

/-- R176 (that nothing is written is decision D18): RUNNING becomes 0, pc stays the HALT's address + 1. -/
def Obligations.HaltStopsTheCore : Prop :=
  ∀ (ign : BitVec 4) (s : State), exec (.trapHalt ign) s = .next { s with running := false }

/-- The fatal errors (44_trap.md R177; 45_reserved.md R200, R201; 60_exceptions.md R224; opcode 1000 is decision D12,
the record's form D25): a TRAP with a vector outside 0x20..0x25 is UnknownTrapError, and both illegal opcodes, whatever
their low 12 bits, are IllegalOpcodeError. pc keeps fault_pc + 1, and nothing but the record and RUNNING changes. -/
def Obligations.FatalErrorsStopTheCore : Prop :=
  ∀ (ign : BitVec 4) (vect : BitVec 8) (ign12 : BitVec 12) (s : State),
    ((vect < 0x20 ∨ 0x25 < vect) → exec (.trap ign vect) s = .next { s with
      running := false
      fault := some { kind := .unknownTrap, faultPc := s.pc - 1, ir := toWord (0b1111#4 ++ ign ++ vect),
                      detail := vect.setWidth 16 } }) ∧
    exec (.illegal8 ign12) s = .next { s with
      running := false
      fault := some { kind := .illegalOpcode, faultPc := s.pc - 1, ir := toWord (0b1000#4 ++ ign12),
                      detail := 0b1000 } } ∧
    exec (.illegalD ign12) s = .next { s with
      running := false
      fault := some { kind := .illegalOpcode, faultPc := s.pc - 1, ir := toWord (0b1101#4 ++ ign12),
                      detail := 0b1101 } }

/-- 44_trap.md R178 (decision D13): no trap routine writes COND, memory, R7 or any register but R0, and only GETC and IN
write that; a routine that is not held leaves pc at the TRAP's address + 1. OUT, HALT and an unknown vector leave the
keyboard alone; GETC, HALT and an unknown vector write no output; only HALT and an unknown vector touch RUNNING, and
only an unknown vector the fault record. -/
def Obligations.TrapFrame : Prop :=
  ∀ (ign : BitVec 4) (vect : BitVec 8) (s t : State),
    ((exec (.trapGetc ign) s = .next t ∨ exec (.trapIn ign) s = .next t) →
      SameRegsBut [0] s t ∧ SameStatus s t ∧ (t.pc = s.pc ∨ t = { s with pc := s.pc - 1 })) ∧
    ((exec (.trapOut ign) s = .next t ∨ exec (.trapPuts ign) s = .next t ∨ exec (.trapPutsp ign) s = .next t) →
      SameRegsBut [] s t ∧ SameStatus s t ∧ t.pc = s.pc) ∧
    (exec (.trapHalt ign) s = .next t → SameRegsBut [] s t ∧ t.fault = s.fault ∧ t.pc = s.pc) ∧
    (exec (.trap ign vect) s = .next t → SameRegsBut [] s t ∧ t.pc = s.pc) ∧
    ((exec (.trapOut ign) s = .next t ∨ exec (.trapHalt ign) s = .next t ∨ exec (.trap ign vect) s = .next t) →
      SameKeyboard s t) ∧
    ((exec (.trapGetc ign) s = .next t ∨ exec (.trapHalt ign) s = .next t ∨ exec (.trap ign vect) s = .next t) →
      t.output = s.output) ∧
    ((exec (.trapGetc ign) s = .next t ∨ exec (.trapOut ign) s = .next t ∨ exec (.trapPuts ign) s = .next t ∨
        exec (.trapIn ign) s = .next t ∨ exec (.trapPutsp ign) s = .next t ∨ exec (.trapHalt ign) s = .next t ∨
        exec (.trap ign vect) s = .next t) →
      t.cond = s.cond ∧ SameMem s t ∧ t.mem = s.mem ∧ t.config = s.config)

/-! ### Rules of the whole machine -/

/-- The destination register of an instruction that sets condition codes (10_state.md R29). -/
def flagSetterDest : Instr → Option Reg
  | .addReg dr _ _ _ => some dr
  | .addImm dr _ _ => some dr
  | .andReg dr _ _ _ => some dr
  | .andImm dr _ _ => some dr
  | .not dr _ _ => some dr
  | .ld dr _ => some dr
  | .ldi dr _ => some dr
  | .ldr dr _ _ => some dr
  | .lea dr _ => some dr
  | _ => none

/-- R29: ADD, AND, NOT, LD, LDI, LDR and LEA set COND from the value they write to DR; no other instruction writes
COND. -/
def Obligations.CondWrittenOnlyByFlagSetters : Prop :=
  ∀ (i : Instr) (s t : State), exec i s = .next t →
    match flagSetterDest i with
    | some dr => t.cond = condOf (t.reg dr)
    | none => t.cond = s.cond

/-- The instructions that are a fatal error (60_exceptions.md R222, R223), for well-formed terms. -/
def isFatal : Instr → Bool
  | .illegal8 _ => true
  | .illegalD _ => true
  | .trap _ _ => true
  | _ => false

/-- HALT, with any ignored bits. -/
def isHalt : Instr → Bool
  | .trapHalt _ => true
  | _ => false

/-- 10_state.md R31, R33; 60_exceptions.md R222, R223 (decisions D20, D25): no instruction but HALT and the fatal ones
writes RUNNING, and none but the fatal ones writes the fault record; none ever sets RUNNING. -/
def Obligations.StatusWrittenOnlyByHaltAndErrors : Prop :=
  ∀ (i : Instr) (s t : State), exec i s = .next t →
    t.running = (s.running && !(isHalt i || isFatal i)) ∧
    (isFatal i = false → t.fault = s.fault) ∧
    (isFatal i = true → ∃ r, t.fault = some r ∧ r.faultPc = s.pc - 1 ∧ r.ir = encode i)

/-- 70_reset_and_hazards.md R264 and R271 (decisions D20, D23): from RUNNING a step goes to HALTED exactly by HALT,
reported Halted, or by a fatal error, reported Err with the record it writes; else it stays RUNNING, reported Continued.
A step on a halted core changes nothing and reports Halted. -/
def Obligations.StepReportsFollowStateMachine : Prop :=
  (∀ s : State, s.running = false → step s = .next s ∧ hostStep s = .next (.halted, s)) ∧
  ∀ s : State, s.running = true → s.config.wf → ∃ t, step s = .next t ∧
    (isHalt (decode s.fetch.1) = true → hostStep s = .next (.halted, t) ∧ t.running = false) ∧
    (isFatal (decode s.fetch.1) = true → ∃ r, hostStep s = .next (.err r, t) ∧ t.running = false ∧
      t.fault = some r ∧ r.faultPc = s.pc ∧ r.ir = s.fetch.1) ∧
    (isHalt (decode s.fetch.1) = false → isFatal (decode s.fetch.1) = false →
      hostStep s = .next (.continued, t) ∧ t.running = true)

/-- 60_exceptions.md R225, R226, R238 (decisions D23, D25): a step that reports a fatal error leaves its record and a
halted core. However many steps, pushes, pops and failed loads follow, the core stays halted with that record and with
registers, COND, pc, memory and keyboard latch as the error left them, a step reports Halted and changes nothing, and
`run` ends with Ok at its first point with no step made; a load that succeeds clears the record and sets RUNNING. -/
def Obligations.FatalErrorIsReportedOnce : Prop :=
  ∀ (s t : State) (r : FaultRecord), hostStep s = .next (.err r, t) →
    t.fault = some r ∧ t.fatalStop ∧
    ∀ u, ReachedWithoutLoad t u →
      u.running = false ∧ u.fault = some r ∧
      SameRegsBut [] t u ∧ u.cond = t.cond ∧ u.pc = t.pc ∧ SameMem t u ∧ u.kbReady = t.kbReady ∧
      u.kbData = t.kbData ∧
      step u = .next u ∧ hostStep u = .next (.halted, u) ∧
      (∀ p ps, run (p :: ps) u = .next (.ok, (u.atPoint p).1, (u.atPoint p).2)) ∧
      ∀ bytes origin, (u.load bytes).1 = .ok origin →
        (u.load bytes).2.fault = none ∧ (u.load bytes).2.running = true

/-- 10_state.md R37: "A program cannot read it at all": what the output channel already holds changes nothing but
itself, whatever runs. -/
def Obligations.OutputCannotBeRead : Prop :=
  ∀ (s : State) (old : List Byte),
    step { s with output := old ++ s.output } =
      match step s with
      | .next t => .next { t with output := old ++ t.output }
      | .fault f => .fault f
      | .refused r => .refused r

/-! ### Memory and the keyboard -/

/-- 20_memory.md R53: a read of a plain address returns M[a] and has no side effect. R54: a write to one sets M[a] and
has no other effect. -/
def Obligations.PlainMemoryReadsAndWrites : Prop :=
  ∀ (s : State) (a v : Word), a ≠ s.config.kbsrAddr → a ≠ s.config.kbdrAddr →
    s.memRead a = (s.mem.read a, s) ∧
    s.memWrite a v = { s with mem := (s.memWrite a v).mem } ∧
    ∀ b, (s.memWrite a v).mem.read b = if b = a then v else s.mem.read b

/-- The model's canonical form of memory (log 1): two memories in it that hold the same words are the same list, and a
core write keeps it. -/
def Obligations.CanonicalMemoriesAreEqualData : Prop :=
  (∀ m m' : Memory, m.wf = true → m'.wf = true → (∀ a : Word, m.read a = m'.read a) → m = m') ∧
  ∀ (s : State) (a v : Word), s.mem.wf = true → (s.memWrite a v).mem.wf = true

/-- The two device addresses (20_memory.md R56 to R59, decisions D5 to D8). A read of KBSR_ADDR polls, then answers
bit 15 = ready and zeros, and does not consume. A read of KBDR_ADDR polls, then consumes the pending character; with
none pending it completes with SOME word, about which nothing is said, and only the draw counter moves. A write to
either changes no state. -/
def Obligations.KeyboardRegistersPollAndConsume : Prop :=
  ∀ s : State, s.config.wf →
    (s.kbReady = true → s.memRead s.config.kbsrAddr = (0x8000, s)) ∧
    (∀ b rest, s.kbReady = false → s.input = b :: rest →
      s.memRead s.config.kbsrAddr = (0x8000, { s with kbReady := true, kbData := b, input := rest })) ∧
    (s.kbReady = false → s.input = [] → s.memRead s.config.kbsrAddr = (0x0000, s)) ∧
    (s.kbReady = true → s.memRead s.config.kbdrAddr = (s.kbData.setWidth 16, { s with kbReady := false })) ∧
    (∀ b rest, s.kbReady = false → s.input = b :: rest →
      s.memRead s.config.kbdrAddr = (b.setWidth 16, { s with kbData := b, input := rest })) ∧
    (s.kbReady = false → s.input = [] →
      ∃ v, s.memRead s.config.kbdrAddr = (v, { s with kbdrDraws := s.kbdrDraws + 1 })) ∧
    ∀ v, s.memWrite s.config.kbsrAddr v = s ∧ s.memWrite s.config.kbdrAddr v = s

/-- R70 and 70_reset_and_hazards.md R274: a store to the next instruction's address is seen by its fetch: `ST SR,#0`
makes the stored word the one that runs next (43_store.md R160). -/
def Obligations.StoredWordRunsNext : Prop :=
  ∀ (s t : State) (sr : Reg), s.running = true → s.isDevice s.pc = false → s.isDevice (s.pc + 1) = false →
    s.mem.read s.pc = encode (.st sr 0) → step s = .next t →
    t.pc = s.pc + 1 ∧ step t = exec (decode (s.reg sr)) { t with pc := s.pc + 2 }

/-! ### The host's commands -/

/-- The bytes of an image, big-endian (70_reset_and_hazards.md R261). -/
def imageBytes (ws : List Word) : List Byte := ws.flatMap (fun w => [w.extractLsb 15 8, w.extractLsb 7 0])

/-- R261 and R263 (decisions D10, D21, D31): `load` writes the program words upward from the origin, wrapping, the last
word written to an address wins, device addresses included; pc, RUNNING and fault are written, and nothing else. -/
def Obligations.LoadWritesImage : Prop :=
  ∀ (s : State) (origin : Word) (ws : List Word),
    (s.load (imageBytes (origin :: ws))).1 = .ok origin ∧
    (s.load (imageBytes (origin :: ws))).2 = { s with
      mem := (s.load (imageBytes (origin :: ws))).2.mem, pc := origin, running := true, fault := none } ∧
    (∀ (i : Nat) (h : i < ws.length),
      (∀ j, i < j → j < ws.length → origin + BitVec.ofNat 16 j ≠ origin + BitVec.ofNat 16 i) →
      (s.load (imageBytes (origin :: ws))).2.mem.read (origin + BitVec.ofNat 16 i) = ws[i]) ∧
    ∀ a, (∀ i, i < ws.length → origin + BitVec.ofNat 16 i ≠ a) →
      (s.load (imageBytes (origin :: ws))).2.mem.read a = s.mem.read a

/-- R262 (the empty image is decision D22): an empty or odd byte sequence is ImageFormatError and changes nothing; every
other one is accepted. -/
def Obligations.LoadRejectsMalformedImages : Prop :=
  ∀ (s : State) (bytes : List Byte),
    ((bytes = [] ∨ bytes.length % 2 = 1) → s.load bytes = (.err .imageFormat, s)) ∧
    (bytes ≠ [] → bytes.length % 2 = 0 → ∃ ws origin, bytes = imageBytes (origin :: ws) ∧
      (s.load bytes).1 = .ok origin)

/-- R266 to R269 (decisions D10, D19, D30): pushes append to the input channel's tail and a pop takes the output
channel's head, and neither touches anything else; inspection returns the registers, COND, pc and RUNNING, and the raw
words from `start` on, wrapping modulo 2^16. -/
def Obligations.HostPortsQueueAndInspect : Prop :=
  ∀ (s : State) (bs : List Byte) (start : Word) (len : Nat),
    bs.foldl State.pushInput s = { s with input := s.input ++ bs } ∧
    (∀ b rest, s.output = b :: rest → s.popOutput = (some b, { s with output := rest })) ∧
    (s.output = [] → s.popOutput = (none, s)) ∧
    (∀ r : Reg, s.snapshot.registers[r] = s.reg r) ∧ s.snapshot.flags = s.cond ∧ s.snapshot.pc = s.pc ∧
    s.snapshot.running = s.running ∧
    s.readMemoryRange start len = (List.range len).map (fun i => s.mem.read (start + BitVec.ofNat 16 i))

/-- R265 and R270 (decisions D19, D24), for every point `p` between two steps of `run` (log 9): what the host does
there is to append its pushes to the input channel and to take its pops from the output channel, and nothing else. Then
`run` checks the signal: set, it returns Ok with no step made; else it steps, and a halting step ends it with Ok, a
fatal one with the error, and a continuing one goes on with the points that follow. The pops' results come in order. -/
def Obligations.RunChecksSignalBeforeEachStep : Prop :=
  ∀ (s t : State) (p : RunPoint) (ps : List RunPoint) (r : FaultRecord),
    s.atPoint p = ((List.range p.pops).map (fun i => s.output[i]?),
      { s with input := s.input ++ p.pushed, output := s.output.drop p.pops }) ∧
    (p.stop = true → run (p :: ps) s = .next (.ok, (s.atPoint p).1, (s.atPoint p).2)) ∧
    (p.stop = false → hostStep (s.atPoint p).2 = .next (.halted, t) →
      run (p :: ps) s = .next (.ok, (s.atPoint p).1, t)) ∧
    (p.stop = false → hostStep (s.atPoint p).2 = .next (.err r, t) →
      run (p :: ps) s = .next (.err r, (s.atPoint p).1, t)) ∧
    ∀ (result : RunResult) (popped : List (Option Byte)) (u : State),
      p.stop = false → hostStep (s.atPoint p).2 = .next (.continued, t) → run ps t = .next (result, popped, u) →
      run (p :: ps) s = .next (result, (s.atPoint p).1 ++ popped, u)
end

