-- ==== Sys2Proof/Laws/Encoding.lean ====
section
/-! SUPPORT. Reading a field back from a word put together from fields. -/

namespace Sys2Proof

/-- A field of a concatenation of 16 bits is read from the concatenation itself. `simp` then finds the part with
`BitVec.extractLsb'_append_eq_of_le` and `BitVec.extractLsb'_append_eq_of_add_le`; give it `-Nat.reduceAdd`, or it
adds up the widths and no longer sees the parts. -/
@[simp] theorem field_toWord {n : Nat} (v : BitVec n) (h : n = 16) (lo k : Nat) :
    field (toWord v h) lo k = v.extractLsb' lo k := by
  subst h; rfl

/-- A vector of `n + m` bits is its two parts. -/
theorem append_extract {n m k : Nat} (v : BitVec k) (lo : Nat) :
    v.extractLsb' (lo + m) n ++ v.extractLsb' lo m = v.extractLsb' lo (n + m) := by
  apply BitVec.eq_of_getLsbD_eq
  intro i hi
  simp only [BitVec.getLsbD_append, BitVec.getLsbD_extractLsb']
  by_cases h : i < m
  · simp [h, show i < n + m by omega]
  · have e : lo + m + (i - m) = lo + i := by omega
    simp [h, hi, show i - m < n by omega, e]

/-- The vector that decodes to an opcode is that opcode's four bits (30_encoding.md R90). -/
theorem opcodeOfBits_inj {b c : BitVec 4} (h : opcodeOfBits b = opcodeOfBits c) : b = c := by
  revert b c; decide

end Sys2Proof
end

