-- ==== Sys2Proof/Laws/State.lean ====
section
/-! SUPPORT. One lemma per field per setter, true by rfl, so that no proof unfolds a record update; and the general
registers through `reg` and `setReg`. -/

namespace Sys2Proof.Machine

variable (s : State)

@[simp] theorem State.setRegs_regs (v : Vector Word 8) : (s.setRegs v).regs = v := rfl
@[simp] theorem State.setRegs_pc (v : Vector Word 8) : (s.setRegs v).pc = s.pc := rfl
@[simp] theorem State.setRegs_cond (v : Vector Word 8) : (s.setRegs v).cond = s.cond := rfl
@[simp] theorem State.setRegs_running (v : Vector Word 8) : (s.setRegs v).running = s.running := rfl
@[simp] theorem State.setRegs_mem (v : Vector Word 8) : (s.setRegs v).mem = s.mem := rfl
@[simp] theorem State.setRegs_kbReady (v : Vector Word 8) : (s.setRegs v).kbReady = s.kbReady := rfl
@[simp] theorem State.setRegs_kbData (v : Vector Word 8) : (s.setRegs v).kbData = s.kbData := rfl
@[simp] theorem State.setRegs_input (v : Vector Word 8) : (s.setRegs v).input = s.input := rfl
@[simp] theorem State.setRegs_output (v : Vector Word 8) : (s.setRegs v).output = s.output := rfl
@[simp] theorem State.setRegs_fault (v : Vector Word 8) : (s.setRegs v).fault = s.fault := rfl
@[simp] theorem State.setRegs_config (v : Vector Word 8) : (s.setRegs v).config = s.config := rfl
@[simp] theorem State.setRegs_kbdrDraws (v : Vector Word 8) : (s.setRegs v).kbdrDraws = s.kbdrDraws := rfl

@[simp] theorem State.setPc_regs (v : Word) : (s.setPc v).regs = s.regs := rfl
@[simp] theorem State.setPc_pc (v : Word) : (s.setPc v).pc = v := rfl
@[simp] theorem State.setPc_cond (v : Word) : (s.setPc v).cond = s.cond := rfl
@[simp] theorem State.setPc_running (v : Word) : (s.setPc v).running = s.running := rfl
@[simp] theorem State.setPc_mem (v : Word) : (s.setPc v).mem = s.mem := rfl
@[simp] theorem State.setPc_kbReady (v : Word) : (s.setPc v).kbReady = s.kbReady := rfl
@[simp] theorem State.setPc_kbData (v : Word) : (s.setPc v).kbData = s.kbData := rfl
@[simp] theorem State.setPc_input (v : Word) : (s.setPc v).input = s.input := rfl
@[simp] theorem State.setPc_output (v : Word) : (s.setPc v).output = s.output := rfl
@[simp] theorem State.setPc_fault (v : Word) : (s.setPc v).fault = s.fault := rfl
@[simp] theorem State.setPc_config (v : Word) : (s.setPc v).config = s.config := rfl
@[simp] theorem State.setPc_kbdrDraws (v : Word) : (s.setPc v).kbdrDraws = s.kbdrDraws := rfl
@[simp] theorem State.reg_setPc (v : Word) (r : Reg) : (s.setPc v).reg r = s.reg r := rfl

@[simp] theorem State.setCond_regs (v : BitVec 3) : (s.setCond v).regs = s.regs := rfl
@[simp] theorem State.setCond_pc (v : BitVec 3) : (s.setCond v).pc = s.pc := rfl
@[simp] theorem State.setCond_cond (v : BitVec 3) : (s.setCond v).cond = v := rfl
@[simp] theorem State.setCond_running (v : BitVec 3) : (s.setCond v).running = s.running := rfl
@[simp] theorem State.setCond_mem (v : BitVec 3) : (s.setCond v).mem = s.mem := rfl
@[simp] theorem State.setCond_kbReady (v : BitVec 3) : (s.setCond v).kbReady = s.kbReady := rfl
@[simp] theorem State.setCond_kbData (v : BitVec 3) : (s.setCond v).kbData = s.kbData := rfl
@[simp] theorem State.setCond_input (v : BitVec 3) : (s.setCond v).input = s.input := rfl
@[simp] theorem State.setCond_output (v : BitVec 3) : (s.setCond v).output = s.output := rfl
@[simp] theorem State.setCond_fault (v : BitVec 3) : (s.setCond v).fault = s.fault := rfl
@[simp] theorem State.setCond_config (v : BitVec 3) : (s.setCond v).config = s.config := rfl
@[simp] theorem State.setCond_kbdrDraws (v : BitVec 3) : (s.setCond v).kbdrDraws = s.kbdrDraws := rfl
@[simp] theorem State.reg_setCond (v : BitVec 3) (r : Reg) : (s.setCond v).reg r = s.reg r := rfl

@[simp] theorem State.setRunning_regs (v : Bool) : (s.setRunning v).regs = s.regs := rfl
@[simp] theorem State.setRunning_pc (v : Bool) : (s.setRunning v).pc = s.pc := rfl
@[simp] theorem State.setRunning_cond (v : Bool) : (s.setRunning v).cond = s.cond := rfl
@[simp] theorem State.setRunning_running (v : Bool) : (s.setRunning v).running = v := rfl
@[simp] theorem State.setRunning_mem (v : Bool) : (s.setRunning v).mem = s.mem := rfl
@[simp] theorem State.setRunning_kbReady (v : Bool) : (s.setRunning v).kbReady = s.kbReady := rfl
@[simp] theorem State.setRunning_kbData (v : Bool) : (s.setRunning v).kbData = s.kbData := rfl
@[simp] theorem State.setRunning_input (v : Bool) : (s.setRunning v).input = s.input := rfl
@[simp] theorem State.setRunning_output (v : Bool) : (s.setRunning v).output = s.output := rfl
@[simp] theorem State.setRunning_fault (v : Bool) : (s.setRunning v).fault = s.fault := rfl
@[simp] theorem State.setRunning_config (v : Bool) : (s.setRunning v).config = s.config := rfl
@[simp] theorem State.setRunning_kbdrDraws (v : Bool) : (s.setRunning v).kbdrDraws = s.kbdrDraws := rfl
@[simp] theorem State.reg_setRunning (v : Bool) (r : Reg) : (s.setRunning v).reg r = s.reg r := rfl

@[simp] theorem State.setMem_regs (v : Memory) : (s.setMem v).regs = s.regs := rfl
@[simp] theorem State.setMem_pc (v : Memory) : (s.setMem v).pc = s.pc := rfl
@[simp] theorem State.setMem_cond (v : Memory) : (s.setMem v).cond = s.cond := rfl
@[simp] theorem State.setMem_running (v : Memory) : (s.setMem v).running = s.running := rfl
@[simp] theorem State.setMem_mem (v : Memory) : (s.setMem v).mem = v := rfl
@[simp] theorem State.setMem_kbReady (v : Memory) : (s.setMem v).kbReady = s.kbReady := rfl
@[simp] theorem State.setMem_kbData (v : Memory) : (s.setMem v).kbData = s.kbData := rfl
@[simp] theorem State.setMem_input (v : Memory) : (s.setMem v).input = s.input := rfl
@[simp] theorem State.setMem_output (v : Memory) : (s.setMem v).output = s.output := rfl
@[simp] theorem State.setMem_fault (v : Memory) : (s.setMem v).fault = s.fault := rfl
@[simp] theorem State.setMem_config (v : Memory) : (s.setMem v).config = s.config := rfl
@[simp] theorem State.setMem_kbdrDraws (v : Memory) : (s.setMem v).kbdrDraws = s.kbdrDraws := rfl
@[simp] theorem State.reg_setMem (v : Memory) (r : Reg) : (s.setMem v).reg r = s.reg r := rfl

@[simp] theorem State.setKbReady_regs (v : Bool) : (s.setKbReady v).regs = s.regs := rfl
@[simp] theorem State.setKbReady_pc (v : Bool) : (s.setKbReady v).pc = s.pc := rfl
@[simp] theorem State.setKbReady_cond (v : Bool) : (s.setKbReady v).cond = s.cond := rfl
@[simp] theorem State.setKbReady_running (v : Bool) : (s.setKbReady v).running = s.running := rfl
@[simp] theorem State.setKbReady_mem (v : Bool) : (s.setKbReady v).mem = s.mem := rfl
@[simp] theorem State.setKbReady_kbReady (v : Bool) : (s.setKbReady v).kbReady = v := rfl
@[simp] theorem State.setKbReady_kbData (v : Bool) : (s.setKbReady v).kbData = s.kbData := rfl
@[simp] theorem State.setKbReady_input (v : Bool) : (s.setKbReady v).input = s.input := rfl
@[simp] theorem State.setKbReady_output (v : Bool) : (s.setKbReady v).output = s.output := rfl
@[simp] theorem State.setKbReady_fault (v : Bool) : (s.setKbReady v).fault = s.fault := rfl
@[simp] theorem State.setKbReady_config (v : Bool) : (s.setKbReady v).config = s.config := rfl
@[simp] theorem State.setKbReady_kbdrDraws (v : Bool) : (s.setKbReady v).kbdrDraws = s.kbdrDraws := rfl
@[simp] theorem State.reg_setKbReady (v : Bool) (r : Reg) : (s.setKbReady v).reg r = s.reg r := rfl

@[simp] theorem State.setKbData_regs (v : Byte) : (s.setKbData v).regs = s.regs := rfl
@[simp] theorem State.setKbData_pc (v : Byte) : (s.setKbData v).pc = s.pc := rfl
@[simp] theorem State.setKbData_cond (v : Byte) : (s.setKbData v).cond = s.cond := rfl
@[simp] theorem State.setKbData_running (v : Byte) : (s.setKbData v).running = s.running := rfl
@[simp] theorem State.setKbData_mem (v : Byte) : (s.setKbData v).mem = s.mem := rfl
@[simp] theorem State.setKbData_kbReady (v : Byte) : (s.setKbData v).kbReady = s.kbReady := rfl
@[simp] theorem State.setKbData_kbData (v : Byte) : (s.setKbData v).kbData = v := rfl
@[simp] theorem State.setKbData_input (v : Byte) : (s.setKbData v).input = s.input := rfl
@[simp] theorem State.setKbData_output (v : Byte) : (s.setKbData v).output = s.output := rfl
@[simp] theorem State.setKbData_fault (v : Byte) : (s.setKbData v).fault = s.fault := rfl
@[simp] theorem State.setKbData_config (v : Byte) : (s.setKbData v).config = s.config := rfl
@[simp] theorem State.setKbData_kbdrDraws (v : Byte) : (s.setKbData v).kbdrDraws = s.kbdrDraws := rfl
@[simp] theorem State.reg_setKbData (v : Byte) (r : Reg) : (s.setKbData v).reg r = s.reg r := rfl

@[simp] theorem State.setInput_regs (v : List Byte) : (s.setInput v).regs = s.regs := rfl
@[simp] theorem State.setInput_pc (v : List Byte) : (s.setInput v).pc = s.pc := rfl
@[simp] theorem State.setInput_cond (v : List Byte) : (s.setInput v).cond = s.cond := rfl
@[simp] theorem State.setInput_running (v : List Byte) : (s.setInput v).running = s.running := rfl
@[simp] theorem State.setInput_mem (v : List Byte) : (s.setInput v).mem = s.mem := rfl
@[simp] theorem State.setInput_kbReady (v : List Byte) : (s.setInput v).kbReady = s.kbReady := rfl
@[simp] theorem State.setInput_kbData (v : List Byte) : (s.setInput v).kbData = s.kbData := rfl
@[simp] theorem State.setInput_input (v : List Byte) : (s.setInput v).input = v := rfl
@[simp] theorem State.setInput_output (v : List Byte) : (s.setInput v).output = s.output := rfl
@[simp] theorem State.setInput_fault (v : List Byte) : (s.setInput v).fault = s.fault := rfl
@[simp] theorem State.setInput_config (v : List Byte) : (s.setInput v).config = s.config := rfl
@[simp] theorem State.setInput_kbdrDraws (v : List Byte) : (s.setInput v).kbdrDraws = s.kbdrDraws := rfl
@[simp] theorem State.reg_setInput (v : List Byte) (r : Reg) : (s.setInput v).reg r = s.reg r := rfl

@[simp] theorem State.setOutput_regs (v : List Byte) : (s.setOutput v).regs = s.regs := rfl
@[simp] theorem State.setOutput_pc (v : List Byte) : (s.setOutput v).pc = s.pc := rfl
@[simp] theorem State.setOutput_cond (v : List Byte) : (s.setOutput v).cond = s.cond := rfl
@[simp] theorem State.setOutput_running (v : List Byte) : (s.setOutput v).running = s.running := rfl
@[simp] theorem State.setOutput_mem (v : List Byte) : (s.setOutput v).mem = s.mem := rfl
@[simp] theorem State.setOutput_kbReady (v : List Byte) : (s.setOutput v).kbReady = s.kbReady := rfl
@[simp] theorem State.setOutput_kbData (v : List Byte) : (s.setOutput v).kbData = s.kbData := rfl
@[simp] theorem State.setOutput_input (v : List Byte) : (s.setOutput v).input = s.input := rfl
@[simp] theorem State.setOutput_output (v : List Byte) : (s.setOutput v).output = v := rfl
@[simp] theorem State.setOutput_fault (v : List Byte) : (s.setOutput v).fault = s.fault := rfl
@[simp] theorem State.setOutput_config (v : List Byte) : (s.setOutput v).config = s.config := rfl
@[simp] theorem State.setOutput_kbdrDraws (v : List Byte) : (s.setOutput v).kbdrDraws = s.kbdrDraws := rfl
@[simp] theorem State.reg_setOutput (v : List Byte) (r : Reg) : (s.setOutput v).reg r = s.reg r := rfl

@[simp] theorem State.setFault_regs (v : Option FaultRecord) : (s.setFault v).regs = s.regs := rfl
@[simp] theorem State.setFault_pc (v : Option FaultRecord) : (s.setFault v).pc = s.pc := rfl
@[simp] theorem State.setFault_cond (v : Option FaultRecord) : (s.setFault v).cond = s.cond := rfl
@[simp] theorem State.setFault_running (v : Option FaultRecord) : (s.setFault v).running = s.running := rfl
@[simp] theorem State.setFault_mem (v : Option FaultRecord) : (s.setFault v).mem = s.mem := rfl
@[simp] theorem State.setFault_kbReady (v : Option FaultRecord) : (s.setFault v).kbReady = s.kbReady := rfl
@[simp] theorem State.setFault_kbData (v : Option FaultRecord) : (s.setFault v).kbData = s.kbData := rfl
@[simp] theorem State.setFault_input (v : Option FaultRecord) : (s.setFault v).input = s.input := rfl
@[simp] theorem State.setFault_output (v : Option FaultRecord) : (s.setFault v).output = s.output := rfl
@[simp] theorem State.setFault_fault (v : Option FaultRecord) : (s.setFault v).fault = v := rfl
@[simp] theorem State.setFault_config (v : Option FaultRecord) : (s.setFault v).config = s.config := rfl
@[simp] theorem State.setFault_kbdrDraws (v : Option FaultRecord) : (s.setFault v).kbdrDraws = s.kbdrDraws := rfl
@[simp] theorem State.reg_setFault (v : Option FaultRecord) (r : Reg) : (s.setFault v).reg r = s.reg r := rfl

@[simp] theorem State.setKbdrDraws_regs (v : Nat) : (s.setKbdrDraws v).regs = s.regs := rfl
@[simp] theorem State.setKbdrDraws_pc (v : Nat) : (s.setKbdrDraws v).pc = s.pc := rfl
@[simp] theorem State.setKbdrDraws_cond (v : Nat) : (s.setKbdrDraws v).cond = s.cond := rfl
@[simp] theorem State.setKbdrDraws_running (v : Nat) : (s.setKbdrDraws v).running = s.running := rfl
@[simp] theorem State.setKbdrDraws_mem (v : Nat) : (s.setKbdrDraws v).mem = s.mem := rfl
@[simp] theorem State.setKbdrDraws_kbReady (v : Nat) : (s.setKbdrDraws v).kbReady = s.kbReady := rfl
@[simp] theorem State.setKbdrDraws_kbData (v : Nat) : (s.setKbdrDraws v).kbData = s.kbData := rfl
@[simp] theorem State.setKbdrDraws_input (v : Nat) : (s.setKbdrDraws v).input = s.input := rfl
@[simp] theorem State.setKbdrDraws_output (v : Nat) : (s.setKbdrDraws v).output = s.output := rfl
@[simp] theorem State.setKbdrDraws_fault (v : Nat) : (s.setKbdrDraws v).fault = s.fault := rfl
@[simp] theorem State.setKbdrDraws_config (v : Nat) : (s.setKbdrDraws v).config = s.config := rfl
@[simp] theorem State.setKbdrDraws_kbdrDraws (v : Nat) : (s.setKbdrDraws v).kbdrDraws = v := rfl
@[simp] theorem State.reg_setKbdrDraws (v : Nat) (r : Reg) : (s.setKbdrDraws v).reg r = s.reg r := rfl

/-! ### `setReg`: one register, nothing else -/

@[simp] theorem State.setReg_pc (r : Reg) (v : Word) : (s.setReg r v).pc = s.pc := rfl
@[simp] theorem State.setReg_cond (r : Reg) (v : Word) : (s.setReg r v).cond = s.cond := rfl
@[simp] theorem State.setReg_running (r : Reg) (v : Word) : (s.setReg r v).running = s.running := rfl
@[simp] theorem State.setReg_mem (r : Reg) (v : Word) : (s.setReg r v).mem = s.mem := rfl
@[simp] theorem State.setReg_kbReady (r : Reg) (v : Word) : (s.setReg r v).kbReady = s.kbReady := rfl
@[simp] theorem State.setReg_kbData (r : Reg) (v : Word) : (s.setReg r v).kbData = s.kbData := rfl
@[simp] theorem State.setReg_input (r : Reg) (v : Word) : (s.setReg r v).input = s.input := rfl
@[simp] theorem State.setReg_output (r : Reg) (v : Word) : (s.setReg r v).output = s.output := rfl
@[simp] theorem State.setReg_fault (r : Reg) (v : Word) : (s.setReg r v).fault = s.fault := rfl
@[simp] theorem State.setReg_config (r : Reg) (v : Word) : (s.setReg r v).config = s.config := rfl
@[simp] theorem State.setReg_kbdrDraws (r : Reg) (v : Word) : (s.setReg r v).kbdrDraws = s.kbdrDraws := rfl

@[simp] theorem State.reg_setReg_same (r : Reg) (v : Word) : (s.setReg r v).reg r = v := by
  simp [State.reg, State.setReg]

theorem State.reg_setReg_other (r q : Reg) (v : Word) (h : q ≠ r) : (s.setReg r v).reg q = s.reg q := by
  have h' : (r : Nat) ≠ q := fun e => h (Fin.ext e.symm)
  simp [State.reg, State.setReg, h']

/-- The whole of a flag-setting instruction's last act (10_state.md R29). -/
theorem State.writeResult_eq (dr : Reg) (v : Word) :
    s.writeResult dr v = (s.setReg dr v).setCond (condOf v) := rfl

end Sys2Proof.Machine
end

