-- ==== Sys2Proof/Laws/HostPort.lean ====
section
/-! SUPPORT. What each host command does, once for each, so that later proofs need not unfold it. -/

namespace Sys2Proof.Machine

/-- Pushes in a row append in order. -/
theorem State.foldl_pushInput (s : State) (bs : List Byte) :
    bs.foldl State.pushInput s = s.setInput (s.input ++ bs) := by
  induction bs generalizing s with
  | nil => simp [State.setInput]
  | cons b bs ih => simp [ih, State.pushInput, State.setInput]

/-- Pops in a row take the oldest bytes in order, and `none` once the channel is empty. -/
theorem State.popMany_eq (n : Nat) (s : State) :
    State.popMany n s = ((List.range n).map (fun i => s.output[i]?), s.setOutput (s.output.drop n)) := by
  induction n generalizing s with
  | zero => simp [State.popMany, State.setOutput]
  | succ n ih =>
    cases h : s.output with
    | nil => simp [State.popMany, State.popOutput, h, ih, List.range_succ_eq_map, State.setOutput, Function.comp_def]
    | cons b rest =>
      simp [State.popMany, State.popOutput, h, ih, List.range_succ_eq_map, State.setOutput, Function.comp_def]

/-- One point of `run`: the input grows by the pushes, the output loses the pops, and nothing else changes. -/
theorem State.atPoint_eq (s : State) (p : RunPoint) :
    s.atPoint p = ((List.range p.pops).map (fun i => s.output[i]?),
      (s.setInput (s.input ++ p.pushed)).setOutput (s.output.drop p.pops)) := by
  rw [State.atPoint, State.foldl_pushInput, State.popMany_eq]
  rfl

/-- A step on a halted core reports Halted and changes nothing (70_reset_and_hazards.md R264). -/
theorem hostStep_halted {s : State} (h : s.running = false) : hostStep s = .next (.halted, s) := by
  simp [hostStep, stepReport, step, h, reportOf]

/-- A pop changes the output channel alone. -/
theorem State.popOutput_state (s : State) : s.popOutput.2 = s.setOutput (s.output.drop 1) := by
  cases h : s.output with
  | nil =>
    simp only [State.popOutput, h, State.setOutput, List.drop_nil]
    rw [← h]
  | cons b rest => simp [State.popOutput, h]

/-- A load that fails changes nothing (R262). -/
theorem State.load_err {s : State} {bytes : List Byte} {e : CoreError} (h : (s.load bytes).1 = .err e) :
    (s.load bytes).2 = s := by
  unfold State.load at h ⊢
  split at h
  · cases h
  · rfl
  · rfl

/-- A load that succeeds clears the fault record and sets RUNNING (R261). -/
theorem State.load_ok {s : State} {bytes : List Byte} {origin : Word} (h : (s.load bytes).1 = .ok origin) :
    (s.load bytes).2.fault = none ∧ (s.load bytes).2.running = true ∧ (s.load bytes).2.pc = origin := by
  unfold State.load at h ⊢
  split at h
  · cases h
    exact ⟨rfl, rfl, rfl⟩
  · cases h
  · cases h

end Sys2Proof.Machine
end

