-- ==== Sys2Proof/Laws/Memory.lean ====
section
/-! SUPPORT. The laws of the backing memory: read after write, everywhere else unchanged, the canonical form kept, and
equal readings make equal memories. -/

namespace Sys2Proof.Machine

/-! ### One cell -/

theorem Memory.cell_erase (m : Memory) (a b : Nat) : (m.erase a).cell b = if b = a then 0#8 else m.cell b := by
  induction m with
  | nil => simp [Memory.erase, Memory.cell]
  | cons c m ih =>
    obtain ⟨k, v⟩ := c
    simp only [Memory.erase, Memory.cell]
    split <;> simp only [Memory.cell, ih] <;> grind

theorem Memory.cell_insert (m : Memory) (a b : Nat) (v : Byte) :
    (m.insert a v).cell b = if b = a then v else m.cell b := by
  induction m with
  | nil => simp only [Memory.insert, Memory.cell]; grind
  | cons c m ih =>
    obtain ⟨k, w⟩ := c
    simp only [Memory.insert, Memory.cell]
    split
    · simp only [Memory.cell]; grind
    · split <;> simp only [Memory.cell, ih] <;> grind

theorem Memory.cell_setCell (m : Memory) (a b : Nat) (v : Byte) :
    (m.setCell a v).cell b = if b = a then v else m.cell b := by
  unfold Memory.setCell
  split
  · rename_i h; rw [Memory.cell_erase, h]
  · exact Memory.cell_insert m a b v

/-! ### One word -/

theorem high_append_low (v : Word) : (highByte v ++ lowByte v : Word) = v := by
  apply BitVec.eq_of_getLsbD_eq
  intro i hi
  simp only [highByte, lowByte, BitVec.getLsbD_append, BitVec.getLsbD_extractLsb']
  by_cases h : i < 8
  · simp [h]
  · have : i - 8 < 8 := by omega
    have e : 8 + (i - 8) = i := by omega
    simp [h, this, e]

/-- 20_memory.md R67(c) at the address written. -/
@[simp] theorem Memory.read_write_same (m : Memory) (a v : Word) : (m.write a v).read a = v := by
  simp only [Memory.read, Memory.write, Memory.cell_setCell]
  simp [high_append_low]

/-- 20_memory.md R67(c) at every other address. -/
theorem Memory.read_write_other (m : Memory) (a b v : Word) (h : b ≠ a) : (m.write a v).read b = m.read b := by
  have h' : b.toNat ≠ a.toNat := fun e => h (BitVec.eq_of_toNat_eq e)
  simp only [Memory.read, Memory.write, Memory.cell_setCell]
  rw [if_neg (by omega), if_neg (by omega), if_neg (by omega), if_neg (by omega)]

theorem Memory.read_write (m : Memory) (a b v : Word) : (m.write a v).read b = if b = a then v else m.read b := by
  split
  · rename_i h; rw [h, Memory.read_write_same]
  · rename_i h; exact Memory.read_write_other m a b v h

@[simp] theorem Memory.read_nil (a : Word) : Memory.read [] a = 0x0000#16 := by
  simp [Memory.read, Memory.cell]

/-! ### The canonical form -/

theorem Memory.wfFrom_cons (lo k : Nat) (b : Byte) (m : Memory) :
    Memory.wfFrom lo ((k, b) :: m) = true ↔
      lo ≤ k ∧ k < 2 * Config.memWords ∧ b ≠ 0#8 ∧ Memory.wfFrom (k + 1) m = true := by
  simp [Memory.wfFrom, and_assoc]

theorem Memory.wfFrom_mono {lo lo' : Nat} {m : Memory} (h : Memory.wfFrom lo m = true) (hle : lo' ≤ lo) :
    Memory.wfFrom lo' m = true := by
  cases m with
  | nil => rfl
  | cons c m =>
    obtain ⟨k, b⟩ := c
    rw [Memory.wfFrom_cons] at h ⊢
    exact ⟨by omega, h.2⟩

theorem Memory.wfFrom_erase {lo : Nat} {m : Memory} (a : Nat) (h : Memory.wfFrom lo m = true) :
    Memory.wfFrom lo (m.erase a) = true := by
  induction m generalizing lo with
  | nil => rfl
  | cons c m ih =>
    obtain ⟨k, b⟩ := c
    rw [Memory.wfFrom_cons] at h
    simp only [Memory.erase]
    split
    · exact Memory.wfFrom_mono (ih h.2.2.2) (by omega)
    · rw [Memory.wfFrom_cons]
      exact ⟨h.1, h.2.1, h.2.2.1, ih h.2.2.2⟩

theorem Memory.wfFrom_insert {lo : Nat} {m : Memory} {a : Nat} {v : Byte} (h : Memory.wfFrom lo m = true)
    (hlo : lo ≤ a) (ha : a < 2 * Config.memWords) (hv : v ≠ 0#8) : Memory.wfFrom lo (m.insert a v) = true := by
  induction m generalizing lo with
  | nil => simp [Memory.insert, Memory.wfFrom, hlo, ha, hv]
  | cons c m ih =>
    obtain ⟨k, b⟩ := c
    have h0 := h
    rw [Memory.wfFrom_cons] at h
    simp only [Memory.insert]
    split
    · rename_i e
      subst e
      rw [Memory.wfFrom_cons]
      exact ⟨hlo, ha, hv, h.2.2.2⟩
    · split
      · rw [Memory.wfFrom_cons]
        exact ⟨hlo, ha, hv, Memory.wfFrom_cons .. |>.2 ⟨by omega, h.2⟩⟩
      · rw [Memory.wfFrom_cons]
        exact ⟨h.1, h.2.1, h.2.2.1, ih h.2.2.2 (by omega)⟩

theorem Memory.wf_setCell {m : Memory} {a : Nat} (v : Byte) (h : m.wf = true) (ha : a < 2 * Config.memWords) :
    (m.setCell a v).wf = true := by
  unfold Memory.setCell Memory.wf
  split
  · exact Memory.wfFrom_erase a h
  · rename_i hv; exact Memory.wfFrom_insert h (by omega) ha hv

/-- Every write keeps the canonical form. -/
theorem Memory.wf_write {m : Memory} (a v : Word) (h : m.wf = true) : (m.write a v).wf = true := by
  have ha : a.toNat < Config.memWords := a.isLt
  exact Memory.wf_setCell _ (Memory.wf_setCell _ h (by omega)) (by omega)

theorem Memory.cell_of_wfFrom {lo a : Nat} {m : Memory} (h : Memory.wfFrom lo m = true) (ha : a < lo) :
    m.cell a = 0#8 := by
  induction m generalizing lo with
  | nil => rfl
  | cons c m ih =>
    obtain ⟨k, b⟩ := c
    rw [Memory.wfFrom_cons] at h
    simp only [Memory.cell]
    rw [if_neg (by omega)]
    exact ih h.2.2.2 (by omega)

/-- In the canonical form, memories that read alike in every cell are one list. -/
theorem Memory.wfFrom_ext {lo : Nat} {m m' : Memory} (h : Memory.wfFrom lo m = true) (h' : Memory.wfFrom lo m' = true)
    (e : ∀ a, m.cell a = m'.cell a) : m = m' := by
  induction m generalizing lo m' with
  | nil =>
    cases m' with
    | nil => rfl
    | cons c m' =>
      obtain ⟨k, b⟩ := c
      rw [Memory.wfFrom_cons] at h'
      have := e k
      simp only [Memory.cell, if_pos] at this
      exact absurd this.symm h'.2.2.1
  | cons c m ih =>
    obtain ⟨k, b⟩ := c
    rw [Memory.wfFrom_cons] at h
    cases m' with
    | nil =>
      have := e k
      simp only [Memory.cell, if_pos] at this
      exact absurd this h.2.2.1
    | cons c' m' =>
      obtain ⟨k', b'⟩ := c'
      rw [Memory.wfFrom_cons] at h'
      have hk := e k
      have hk' := e k'
      simp only [Memory.cell, if_pos] at hk hk'
      have hkk : k = k' := by
        by_contra hne
        by_cases hlt : k < k'
        · rw [if_neg (by omega), Memory.cell_of_wfFrom h'.2.2.2 (by omega)] at hk
          exact h.2.2.1 hk
        · rw [if_neg (by omega), Memory.cell_of_wfFrom h.2.2.2 (by omega)] at hk'
          exact h'.2.2.1 hk'.symm
      subst hkk
      rw [if_pos rfl] at hk
      subst hk
      have : m = m' := ih h.2.2.2 h'.2.2.2 (fun a => by
        by_cases ha : a < k + 1
        · rw [Memory.cell_of_wfFrom h.2.2.2 ha, Memory.cell_of_wfFrom h'.2.2.2 ha]
        · have := e a
          simpa only [Memory.cell, if_neg (show ¬ k = a by omega)] using this)
      rw [this]

end Sys2Proof.Machine
end

