-- ==== Sys2Proof/Laws/Ops.lean ====
section
/-! SUPPORT. One lemma for each shared operation that says everything it can do. -/

namespace Sys2Proof.Machine

variable (s : State)

/-! ### The keyboard poll -/

/-- Everything `kbdPoll` can do (20_memory.md R56). -/
theorem State.kbdPoll_cases :
    (s.kbdPoll = s ∧ (s.kbReady = true ∨ s.input = [])) ∨
    (∃ b rest, s.kbReady = false ∧ s.input = b :: rest ∧
      s.kbdPoll = ((s.setKbData b).setInput rest).setKbReady true) := by
  unfold State.kbdPoll
  split
  · rename_i b rest h1 h2; exact .inr ⟨b, rest, h1, h2, rfl⟩
  · rename_i _ h2; exact .inl ⟨rfl, .inr h2⟩
  · rename_i h1; exact .inl ⟨rfl, .inl h1⟩

@[simp] theorem State.kbdPoll_regs : s.kbdPoll.regs = s.regs := by
  obtain ⟨e, -⟩ | ⟨b, rest, -, -, e⟩ := s.kbdPoll_cases <;> simp [e]

@[simp] theorem State.kbdPoll_pc : s.kbdPoll.pc = s.pc := by
  obtain ⟨e, -⟩ | ⟨b, rest, -, -, e⟩ := s.kbdPoll_cases <;> simp [e]

@[simp] theorem State.kbdPoll_cond : s.kbdPoll.cond = s.cond := by
  obtain ⟨e, -⟩ | ⟨b, rest, -, -, e⟩ := s.kbdPoll_cases <;> simp [e]

@[simp] theorem State.kbdPoll_running : s.kbdPoll.running = s.running := by
  obtain ⟨e, -⟩ | ⟨b, rest, -, -, e⟩ := s.kbdPoll_cases <;> simp [e]

@[simp] theorem State.kbdPoll_mem : s.kbdPoll.mem = s.mem := by
  obtain ⟨e, -⟩ | ⟨b, rest, -, -, e⟩ := s.kbdPoll_cases <;> simp [e]

@[simp] theorem State.kbdPoll_output : s.kbdPoll.output = s.output := by
  obtain ⟨e, -⟩ | ⟨b, rest, -, -, e⟩ := s.kbdPoll_cases <;> simp [e]

@[simp] theorem State.kbdPoll_fault : s.kbdPoll.fault = s.fault := by
  obtain ⟨e, -⟩ | ⟨b, rest, -, -, e⟩ := s.kbdPoll_cases <;> simp [e]

@[simp] theorem State.kbdPoll_config : s.kbdPoll.config = s.config := by
  obtain ⟨e, -⟩ | ⟨b, rest, -, -, e⟩ := s.kbdPoll_cases <;> simp [e]

@[simp] theorem State.kbdPoll_kbdrDraws : s.kbdPoll.kbdrDraws = s.kbdrDraws := by
  obtain ⟨e, -⟩ | ⟨b, rest, -, -, e⟩ := s.kbdPoll_cases <;> simp [e]

@[simp] theorem State.reg_kbdPoll (r : Reg) : s.kbdPoll.reg r = s.reg r := by
  simp [State.reg]

/-- How many characters the core can still take: the latched one and those in the channel. -/
def State.pending : Nat := s.input.length + s.kbReady.toNat

@[simp] theorem State.pending_kbdPoll : s.kbdPoll.pending = s.pending := by
  obtain ⟨e, -⟩ | ⟨b, rest, h1, h2, e⟩ := s.kbdPoll_cases
  · rw [e]
  · simp [e, State.pending, h1, h2]

/-- After a poll the latch is full exactly when a character was pending. -/
theorem State.kbdPoll_kbReady : s.kbdPoll.kbReady = decide (0 < s.pending) := by
  obtain ⟨e, h | h⟩ | ⟨b, rest, h1, h2, e⟩ := s.kbdPoll_cases
  · simp [e, State.pending, h]
  · rw [e]; cases hr : s.kbReady <;> simp [State.pending, h, hr]
  · simp [e, State.pending, h2]

/-! ### `memRead`: the registers, memory, output, status and parameters stay -/

theorem State.memRead_plain (a : Word) (h : s.isDevice a = false) : s.memRead a = (s.mem.read a, s) := by
  simp only [State.isDevice, Bool.or_eq_false_iff, decide_eq_false_iff_not] at h
  simp [State.memRead, h.1, h.2]

@[simp] theorem State.memRead_regs (a : Word) : (s.memRead a).2.regs = s.regs := by
  unfold State.memRead State.readKbsr State.readKbdr
  split
  · simp
  · split
    · simp only; split <;> simp
    · rfl

@[simp] theorem State.memRead_pc (a : Word) : (s.memRead a).2.pc = s.pc := by
  unfold State.memRead State.readKbsr State.readKbdr
  split
  · simp
  · split
    · simp only; split <;> simp
    · rfl

@[simp] theorem State.memRead_cond (a : Word) : (s.memRead a).2.cond = s.cond := by
  unfold State.memRead State.readKbsr State.readKbdr
  split
  · simp
  · split
    · simp only; split <;> simp
    · rfl

@[simp] theorem State.memRead_running (a : Word) : (s.memRead a).2.running = s.running := by
  unfold State.memRead State.readKbsr State.readKbdr
  split
  · simp
  · split
    · simp only; split <;> simp
    · rfl

@[simp] theorem State.memRead_mem (a : Word) : (s.memRead a).2.mem = s.mem := by
  unfold State.memRead State.readKbsr State.readKbdr
  split
  · simp
  · split
    · simp only; split <;> simp
    · rfl

@[simp] theorem State.memRead_output (a : Word) : (s.memRead a).2.output = s.output := by
  unfold State.memRead State.readKbsr State.readKbdr
  split
  · simp
  · split
    · simp only; split <;> simp
    · rfl

@[simp] theorem State.memRead_fault (a : Word) : (s.memRead a).2.fault = s.fault := by
  unfold State.memRead State.readKbsr State.readKbdr
  split
  · simp
  · split
    · simp only; split <;> simp
    · rfl

@[simp] theorem State.memRead_config (a : Word) : (s.memRead a).2.config = s.config := by
  unfold State.memRead State.readKbsr State.readKbdr
  split
  · simp
  · split
    · simp only; split <;> simp
    · rfl

@[simp] theorem State.reg_memRead (a : Word) (r : Reg) : (s.memRead a).2.reg r = s.reg r := by
  simp [State.reg]

/-! ### `kbdTake`: only the latch and the input channel change -/

@[simp] theorem State.kbdTake_regs : s.kbdTake.2.regs = s.regs := by
  unfold State.kbdTake
  simp only
  split <;> simp

@[simp] theorem State.kbdTake_pc : s.kbdTake.2.pc = s.pc := by
  unfold State.kbdTake
  simp only
  split <;> simp

@[simp] theorem State.kbdTake_cond : s.kbdTake.2.cond = s.cond := by
  unfold State.kbdTake
  simp only
  split <;> simp

@[simp] theorem State.kbdTake_running : s.kbdTake.2.running = s.running := by
  unfold State.kbdTake
  simp only
  split <;> simp

@[simp] theorem State.kbdTake_mem : s.kbdTake.2.mem = s.mem := by
  unfold State.kbdTake
  simp only
  split <;> simp

@[simp] theorem State.kbdTake_output : s.kbdTake.2.output = s.output := by
  unfold State.kbdTake
  simp only
  split <;> simp

@[simp] theorem State.kbdTake_fault : s.kbdTake.2.fault = s.fault := by
  unfold State.kbdTake
  simp only
  split <;> simp

@[simp] theorem State.kbdTake_config : s.kbdTake.2.config = s.config := by
  unfold State.kbdTake
  simp only
  split <;> simp

@[simp] theorem State.kbdTake_kbdrDraws : s.kbdTake.2.kbdrDraws = s.kbdrDraws := by
  unfold State.kbdTake
  simp only
  split <;> simp

@[simp] theorem State.reg_kbdTake (r : Reg) : s.kbdTake.2.reg r = s.reg r := by
  simp [State.reg]

/-- With nothing pending, `kbdTake` answers none and changes nothing (20_memory.md R60). -/
theorem State.kbdTake_none (h1 : s.kbReady = false) (h2 : s.input = []) : s.kbdTake = (none, s) := by
  simp [State.kbdTake, State.kbdPoll, h1, h2]

/-- A latched character is taken first (44_trap.md R171). -/
theorem State.kbdTake_latched (h : s.kbReady = true) : s.kbdTake = (some s.kbData, s.setKbReady false) := by
  simp [State.kbdTake, State.kbdPoll, h]

/-- With the latch empty, the channel's head is taken, through the latch. -/
theorem State.kbdTake_channel (b : Byte) (rest : List Byte) (h1 : s.kbReady = false) (h2 : s.input = b :: rest) :
    s.kbdTake = (some b, (((s.setKbData b).setInput rest).setKbReady true).setKbReady false) := by
  simp [State.kbdTake, State.kbdPoll, h1, h2]

/-! ### `memWrite`: memory alone -/

@[simp] theorem State.memWrite_regs (a v : Word) : (s.memWrite a v).regs = s.regs := by
  unfold State.memWrite; split <;> simp

@[simp] theorem State.memWrite_pc (a v : Word) : (s.memWrite a v).pc = s.pc := by
  unfold State.memWrite; split <;> simp

@[simp] theorem State.memWrite_cond (a v : Word) : (s.memWrite a v).cond = s.cond := by
  unfold State.memWrite; split <;> simp

@[simp] theorem State.memWrite_running (a v : Word) : (s.memWrite a v).running = s.running := by
  unfold State.memWrite; split <;> simp

@[simp] theorem State.memWrite_kbReady (a v : Word) : (s.memWrite a v).kbReady = s.kbReady := by
  unfold State.memWrite; split <;> simp

@[simp] theorem State.memWrite_kbData (a v : Word) : (s.memWrite a v).kbData = s.kbData := by
  unfold State.memWrite; split <;> simp

@[simp] theorem State.memWrite_input (a v : Word) : (s.memWrite a v).input = s.input := by
  unfold State.memWrite; split <;> simp

@[simp] theorem State.memWrite_output (a v : Word) : (s.memWrite a v).output = s.output := by
  unfold State.memWrite; split <;> simp

@[simp] theorem State.memWrite_fault (a v : Word) : (s.memWrite a v).fault = s.fault := by
  unfold State.memWrite; split <;> simp

@[simp] theorem State.memWrite_config (a v : Word) : (s.memWrite a v).config = s.config := by
  unfold State.memWrite; split <;> simp

@[simp] theorem State.memWrite_kbdrDraws (a v : Word) : (s.memWrite a v).kbdrDraws = s.kbdrDraws := by
  unfold State.memWrite; split <;> simp

@[simp] theorem State.reg_memWrite (a v : Word) (r : Reg) : (s.memWrite a v).reg r = s.reg r := by
  simp [State.reg]

/-- Every word of memory after a `memWrite` (20_memory.md R54, R59). -/
theorem State.read_memWrite (a v b : Word) :
    (s.memWrite a v).mem.read b = if s.isDevice a = false ∧ b = a then v else s.mem.read b := by
  unfold State.memWrite
  cases h : s.isDevice a <;> simp [Memory.read_write]

/-- A `memWrite` keeps the canonical form of memory. -/
theorem State.wf_memWrite (a v : Word) (h : s.mem.wf = true) : (s.memWrite a v).mem.wf = true := by
  unfold State.memWrite
  split
  · exact h
  · exact Memory.wf_write a v h

/-! ### The fetch -/

@[simp] theorem State.fetch_regs : s.fetch.2.regs = s.regs := by
  simp [State.fetch]

@[simp] theorem State.fetch_cond : s.fetch.2.cond = s.cond := by
  simp [State.fetch]

@[simp] theorem State.fetch_running : s.fetch.2.running = s.running := by
  simp [State.fetch]

@[simp] theorem State.fetch_mem : s.fetch.2.mem = s.mem := by
  simp [State.fetch]

@[simp] theorem State.fetch_output : s.fetch.2.output = s.output := by
  simp [State.fetch]

@[simp] theorem State.fetch_fault : s.fetch.2.fault = s.fault := by
  simp [State.fetch]

@[simp] theorem State.fetch_config : s.fetch.2.config = s.config := by
  simp [State.fetch]

@[simp] theorem State.fetch_pc : s.fetch.2.pc = s.pc + 1 := rfl

@[simp] theorem State.reg_fetch (r : Reg) : s.fetch.2.reg r = s.reg r := by
  simp [State.reg]

/-- A fetch from a plain address has no effect but the increment of pc (20_memory.md R53). -/
theorem State.fetch_plain (h : s.isDevice s.pc = false) : s.fetch = (s.mem.read s.pc, s.setPc (s.pc + 1)) := by
  simp [State.fetch, s.memRead_plain s.pc h]

/-! ### Ends of a step -/

/-- The whole of a fatal error's entry (60_exceptions.md R224). -/
theorem State.raiseFatal_eq (kind : FatalKind) (ir detail : Word) :
    s.raiseFatal kind ir detail =
      { s with fault := some ⟨kind, s.pc - 1, ir, detail⟩, running := false } := rfl

theorem State.out_eq (b : Byte) : s.out b = s.setOutput (s.output ++ [b]) := rfl

theorem State.hold_eq : s.hold = s.setPc (s.pc - 1) := rfl

theorem State.halt_eq : s.halt = s.setRunning false := rfl

end Sys2Proof.Machine
end

