-- ==== Sys2Proof/Laws/PerInstr.lean ====
section
/-! SUPPORT. What holds of every instruction, one lemma for each constructor. The family `DecodeEncode`: the decoder
reads every well-formed instruction back from the word the encoder writes (30_encoding.md R84, R94). -/

namespace Sys2Proof.Laws

open BitVec (extractLsb'_append_eq_of_le extractLsb'_append_eq_of_add_le)

def DecodeEncode.Statement (i : Instr) : Prop := i.wellFormed = true → decode (encode i) = i

theorem DecodeEncode.br (nzp : BitVec 3) (off : BitVec 9) : DecodeEncode.Statement (.br nzp off) := by
  intro _
  simp [-Nat.reduceAdd, encode, decode, opcodeOf, opcodeOfBits, extractLsb'_append_eq_of_le,
    extractLsb'_append_eq_of_add_le]

theorem DecodeEncode.addReg (dr sr1 : Reg) (ign : BitVec 2) (sr2 : Reg) : DecodeEncode.Statement (.addReg dr sr1 ign sr2) := by
  intro _
  simp [-Nat.reduceAdd, encode, decode, opcodeOf, opcodeOfBits, regField, regBits, extractLsb'_append_eq_of_le,
    extractLsb'_append_eq_of_add_le]

theorem DecodeEncode.addImm (dr sr1 : Reg) (imm : BitVec 5) : DecodeEncode.Statement (.addImm dr sr1 imm) := by
  intro _
  simp [-Nat.reduceAdd, encode, decode, opcodeOf, opcodeOfBits, regField, regBits, extractLsb'_append_eq_of_le,
    extractLsb'_append_eq_of_add_le]

theorem DecodeEncode.ld (dr : Reg) (off : BitVec 9) : DecodeEncode.Statement (.ld dr off) := by
  intro _
  simp [-Nat.reduceAdd, encode, decode, opcodeOf, opcodeOfBits, regField, regBits, extractLsb'_append_eq_of_le,
    extractLsb'_append_eq_of_add_le]

theorem DecodeEncode.st (sr : Reg) (off : BitVec 9) : DecodeEncode.Statement (.st sr off) := by
  intro _
  simp [-Nat.reduceAdd, encode, decode, opcodeOf, opcodeOfBits, regField, regBits, extractLsb'_append_eq_of_le,
    extractLsb'_append_eq_of_add_le]

theorem DecodeEncode.jsr (off : BitVec 11) : DecodeEncode.Statement (.jsr off) := by
  intro _
  simp [-Nat.reduceAdd, encode, decode, opcodeOf, opcodeOfBits, extractLsb'_append_eq_of_le,
    extractLsb'_append_eq_of_add_le]

theorem DecodeEncode.jsrr (ignHi : BitVec 2) (base : Reg) (ignLo : BitVec 6) : DecodeEncode.Statement (.jsrr ignHi base ignLo) := by
  intro _
  simp [-Nat.reduceAdd, encode, decode, opcodeOf, opcodeOfBits, regField, regBits, extractLsb'_append_eq_of_le,
    extractLsb'_append_eq_of_add_le]

theorem DecodeEncode.andReg (dr sr1 : Reg) (ign : BitVec 2) (sr2 : Reg) : DecodeEncode.Statement (.andReg dr sr1 ign sr2) := by
  intro _
  simp [-Nat.reduceAdd, encode, decode, opcodeOf, opcodeOfBits, regField, regBits, extractLsb'_append_eq_of_le,
    extractLsb'_append_eq_of_add_le]

theorem DecodeEncode.andImm (dr sr1 : Reg) (imm : BitVec 5) : DecodeEncode.Statement (.andImm dr sr1 imm) := by
  intro _
  simp [-Nat.reduceAdd, encode, decode, opcodeOf, opcodeOfBits, regField, regBits, extractLsb'_append_eq_of_le,
    extractLsb'_append_eq_of_add_le]

theorem DecodeEncode.ldr (dr base : Reg) (off : BitVec 6) : DecodeEncode.Statement (.ldr dr base off) := by
  intro _
  simp [-Nat.reduceAdd, encode, decode, opcodeOf, opcodeOfBits, regField, regBits, extractLsb'_append_eq_of_le,
    extractLsb'_append_eq_of_add_le]

theorem DecodeEncode.str (sr base : Reg) (off : BitVec 6) : DecodeEncode.Statement (.str sr base off) := by
  intro _
  simp [-Nat.reduceAdd, encode, decode, opcodeOf, opcodeOfBits, regField, regBits, extractLsb'_append_eq_of_le,
    extractLsb'_append_eq_of_add_le]

theorem DecodeEncode.illegal8 (ign : BitVec 12) : DecodeEncode.Statement (.illegal8 ign) := by
  intro _
  simp [-Nat.reduceAdd, encode, decode, opcodeOf, opcodeOfBits, extractLsb'_append_eq_of_le,
    extractLsb'_append_eq_of_add_le]

theorem DecodeEncode.not (dr sr : Reg) (ign : BitVec 6) : DecodeEncode.Statement (.not dr sr ign) := by
  intro _
  simp [-Nat.reduceAdd, encode, decode, opcodeOf, opcodeOfBits, regField, regBits, extractLsb'_append_eq_of_le,
    extractLsb'_append_eq_of_add_le]

theorem DecodeEncode.ldi (dr : Reg) (off : BitVec 9) : DecodeEncode.Statement (.ldi dr off) := by
  intro _
  simp [-Nat.reduceAdd, encode, decode, opcodeOf, opcodeOfBits, regField, regBits, extractLsb'_append_eq_of_le,
    extractLsb'_append_eq_of_add_le]

theorem DecodeEncode.sti (sr : Reg) (off : BitVec 9) : DecodeEncode.Statement (.sti sr off) := by
  intro _
  simp [-Nat.reduceAdd, encode, decode, opcodeOf, opcodeOfBits, regField, regBits, extractLsb'_append_eq_of_le,
    extractLsb'_append_eq_of_add_le]

theorem DecodeEncode.jmp (ignHi : BitVec 3) (base : Reg) (ignLo : BitVec 6) : DecodeEncode.Statement (.jmp ignHi base ignLo) := by
  intro h
  have hb : base ≠ 7 := by simpa [Instr.wellFormed] using h
  simp [-Nat.reduceAdd, encode, decode, opcodeOf, opcodeOfBits, regField, regBits, extractLsb'_append_eq_of_le,
    extractLsb'_append_eq_of_add_le, hb]

theorem DecodeEncode.ret (ignHi : BitVec 3) (ignLo : BitVec 6) : DecodeEncode.Statement (.ret ignHi ignLo) := by
  intro _
  simp [-Nat.reduceAdd, encode, decode, opcodeOf, opcodeOfBits, regField, extractLsb'_append_eq_of_le,
    extractLsb'_append_eq_of_add_le]

theorem DecodeEncode.illegalD (ign : BitVec 12) : DecodeEncode.Statement (.illegalD ign) := by
  intro _
  simp [-Nat.reduceAdd, encode, decode, opcodeOf, opcodeOfBits, extractLsb'_append_eq_of_le,
    extractLsb'_append_eq_of_add_le]

theorem DecodeEncode.lea (dr : Reg) (off : BitVec 9) : DecodeEncode.Statement (.lea dr off) := by
  intro _
  simp [-Nat.reduceAdd, encode, decode, opcodeOf, opcodeOfBits, regField, regBits, extractLsb'_append_eq_of_le,
    extractLsb'_append_eq_of_add_le]

theorem DecodeEncode.trapGetc (ign : BitVec 4) : DecodeEncode.Statement (.trapGetc ign) := by
  intro _
  simp [-Nat.reduceAdd, encode, decode, opcodeOf, opcodeOfBits, extractLsb'_append_eq_of_le,
    extractLsb'_append_eq_of_add_le, decodeTrap]

theorem DecodeEncode.trapOut (ign : BitVec 4) : DecodeEncode.Statement (.trapOut ign) := by
  intro _
  simp [-Nat.reduceAdd, encode, decode, opcodeOf, opcodeOfBits, extractLsb'_append_eq_of_le,
    extractLsb'_append_eq_of_add_le, decodeTrap]

theorem DecodeEncode.trapPuts (ign : BitVec 4) : DecodeEncode.Statement (.trapPuts ign) := by
  intro _
  simp [-Nat.reduceAdd, encode, decode, opcodeOf, opcodeOfBits, extractLsb'_append_eq_of_le,
    extractLsb'_append_eq_of_add_le, decodeTrap]

theorem DecodeEncode.trapIn (ign : BitVec 4) : DecodeEncode.Statement (.trapIn ign) := by
  intro _
  simp [-Nat.reduceAdd, encode, decode, opcodeOf, opcodeOfBits, extractLsb'_append_eq_of_le,
    extractLsb'_append_eq_of_add_le, decodeTrap]

theorem DecodeEncode.trapPutsp (ign : BitVec 4) : DecodeEncode.Statement (.trapPutsp ign) := by
  intro _
  simp [-Nat.reduceAdd, encode, decode, opcodeOf, opcodeOfBits, extractLsb'_append_eq_of_le,
    extractLsb'_append_eq_of_add_le, decodeTrap]

theorem DecodeEncode.trapHalt (ign : BitVec 4) : DecodeEncode.Statement (.trapHalt ign) := by
  intro _
  simp [-Nat.reduceAdd, encode, decode, opcodeOf, opcodeOfBits, extractLsb'_append_eq_of_le,
    extractLsb'_append_eq_of_add_le, decodeTrap]

theorem DecodeEncode.trap (ign : BitVec 4) (vect : BitVec 8) : DecodeEncode.Statement (.trap ign vect) := by
  intro h
  have hv : ∀ k : BitVec 8, knownVector k = true → vect ≠ k := by
    rintro k hk rfl
    simp [Instr.wellFormed, hk] at h
  simp [-Nat.reduceAdd, encode, decode, opcodeOf, opcodeOfBits, extractLsb'_append_eq_of_le,
    extractLsb'_append_eq_of_add_le, decodeTrap, hv 0x20#8 (by decide), hv 0x21#8 (by decide), hv 0x22#8 (by decide),
    hv 0x23#8 (by decide), hv 0x24#8 (by decide), hv 0x25#8 (by decide)]

end Sys2Proof.Laws
end

