-- ==== Sys2Proof/Laws/Scan.lean ====
section
/-! SUPPORT. What the scans of PUTS and PUTSP leave alone, once for each, for any number of reads. -/

namespace Sys2Proof.Machine

/-- `t` is `s` with more output and another keyboard state: all a scan can do (44_trap.md R173, R175, R178). -/
structure ScanChanges (s t : State) : Prop where
  regs : t.regs = s.regs
  pc : t.pc = s.pc
  cond : t.cond = s.cond
  running : t.running = s.running
  mem : t.mem = s.mem
  fault : t.fault = s.fault
  config : t.config = s.config
  output : ∃ bs, t.output = s.output ++ bs

theorem ScanChanges.trans {s t u : State} (h : ScanChanges s t) (h' : ScanChanges t u) : ScanChanges s u where
  regs := h'.regs.trans h.regs
  pc := h'.pc.trans h.pc
  cond := h'.cond.trans h.cond
  running := h'.running.trans h.running
  mem := h'.mem.trans h.mem
  fault := h'.fault.trans h.fault
  config := h'.config.trans h.config
  output := by
    obtain ⟨bs, e⟩ := h.output
    obtain ⟨cs, e'⟩ := h'.output
    exact ⟨bs ++ cs, by rw [e', e, List.append_assoc]⟩

theorem ScanChanges.read (s : State) (a : Word) : ScanChanges s (s.memRead a).2 := by
  constructor <;> simp

theorem ScanChanges.out (s : State) (b : Byte) : ScanChanges s (s.out b) := by
  constructor <;> simp [State.out]

theorem putsScan_changes {n : Nat} {a : Word} {s t : State} (h : putsScan n a s = some t) : ScanChanges s t := by
  induction n generalizing a s with
  | zero => cases h
  | succ n ih =>
    simp only [putsScan] at h
    split at h
    · cases h; exact .read s a
    · exact ((ScanChanges.read s a).trans (.out _ _)).trans (ih h)

theorem putspScan_changes {n : Nat} {a : Word} {s t : State} (h : putspScan n a s = some t) : ScanChanges s t := by
  induction n generalizing a s with
  | zero => cases h
  | succ n ih =>
    simp only [putspScan] at h
    split at h
    · cases h; exact .read s a
    · split at h
      · cases h; exact (ScanChanges.read s a).trans (.out _ _)
      · exact (((ScanChanges.read s a).trans (.out _ _)).trans (.out _ _)).trans (ih h)

/-- PUTS: what it leaves alone, from the meaning. -/
theorem execTrapPuts_changes {s t : State} (h : execTrapPuts s = .next t) : ScanChanges s t := by
  unfold execTrapPuts at h
  split at h
  · cases h; exact putsScan_changes ‹_›
  · cases h

/-- PUTSP: what it leaves alone, from the meaning. -/
theorem execTrapPutsp_changes {s t : State} (h : execTrapPutsp s = .next t) : ScanChanges s t := by
  unfold execTrapPutsp at h
  split at h
  · cases h; exact putspScan_changes ‹_›
  · cases h

end Sys2Proof.Machine
end

