-- ==== Sys2Proof/Tests/Slice0.lean ====
section
/-! SUPPORT. The model's own tests: the WellFormed smoke, a decoding of every row from its written-out word, single steps
whose results stand in spec/95_test_vectors.md (the row is named), and a witness for every statement with hypotheses. -/

namespace Sys2Proof.Tests

open Sys2Proof.Machine

/-! ### WellFormed: what each check refuses -/

theorem test_jmp_r7_is_ill_formed : (Instr.jmp 0 7 0).wellFormed = false := by decide

theorem test_jmp_r6_is_well_formed : (Instr.jmp 0 6 0).wellFormed = true := by decide

theorem test_trap_with_known_vector_is_ill_formed :
    (Instr.trap 0 0x20).wellFormed = false ∧ (Instr.trap 0 0x25).wellFormed = false := by decide

theorem test_trap_beside_known_vectors_is_well_formed :
    (Instr.trap 0 0x1F).wellFormed = true ∧ (Instr.trap 0 0x26).wellFormed = true := by decide

/-! ### Decoding: one word for each row, written out from the formats of 30_encoding.md R84 -/

theorem test_decode_br : decode 0b0000_101_000000111#16 = .br 0b101 7 := by decide
theorem test_decode_add_register : decode 0b0001_011_100_0_10_101#16 = .addReg 3 4 0b10 5 := by decide
theorem test_decode_add_immediate : decode 0b0001_011_100_1_10001#16 = .addImm 3 4 0b10001 := by decide
theorem test_decode_ld : decode 0b0010_110_100000001#16 = .ld 6 0b100000001 := by decide
theorem test_decode_st : decode 0b0011_110_100000001#16 = .st 6 0b100000001 := by decide
theorem test_decode_jsr : decode 0b0100_1_10000000001#16 = .jsr 0b10000000001 := by decide
theorem test_decode_jsrr : decode 0b0100_0_10_110_100001#16 = .jsrr 0b10 6 0b100001 := by decide
theorem test_decode_and_register : decode 0b0101_001_010_0_01_011#16 = .andReg 1 2 0b01 3 := by decide
theorem test_decode_and_immediate : decode 0b0101_001_010_1_01011#16 = .andImm 1 2 0b01011 := by decide
theorem test_decode_ldr : decode 0b0110_101_010_100001#16 = .ldr 5 2 0b100001 := by decide
theorem test_decode_str : decode 0b0111_101_010_100001#16 = .str 5 2 0b100001 := by decide
theorem test_decode_illegal8 : decode 0b1000_100000000001#16 = .illegal8 0b100000000001 := by decide
theorem test_decode_not : decode 0b1001_110_001_111110#16 = .not 6 1 0b111110 := by decide
theorem test_decode_ldi : decode 0b1010_001_000000110#16 = .ldi 1 6 := by decide
theorem test_decode_sti : decode 0b1011_010_000000100#16 = .sti 2 4 := by decide
theorem test_decode_jmp : decode 0b1100_101_011_000001#16 = .jmp 0b101 3 1 := by decide
theorem test_decode_ret : decode 0b1100_000_111_000000#16 = .ret 0 0 := by decide
theorem test_decode_illegalD : decode 0b1101_100000000001#16 = .illegalD 0b100000000001 := by decide
theorem test_decode_lea : decode 0b1110_100_000000101#16 = .lea 4 5 := by decide
theorem test_decode_trap_getc : decode 0b1111_0000_00100000#16 = .trapGetc 0 := by decide
theorem test_decode_trap_out : decode 0b1111_0000_00100001#16 = .trapOut 0 := by decide
theorem test_decode_trap_puts : decode 0b1111_0000_00100010#16 = .trapPuts 0 := by decide
theorem test_decode_trap_in : decode 0b1111_0000_00100011#16 = .trapIn 0 := by decide
theorem test_decode_trap_putsp : decode 0b1111_0000_00100100#16 = .trapPutsp 0 := by decide
theorem test_decode_trap_halt : decode 0b1111_1111_00100101#16 = .trapHalt 0b1111 := by decide
theorem test_decode_trap_unknown : decode 0b1111_0010_00100110#16 = .trap 0b0010 0x26 := by decide

/-! ### One step -/

/-- A running core at 0x3000 with the words `ws` there, everything else as `new` leaves it (95_test_vectors.md). -/
def loaded (ws : List Word) : State :=
  { State.reset with pc := 0x3000, running := true, mem := Memory.writeWords [] 0x3000 ws }

/-- The core started at `origin` instead. -/
def loadedAt (origin : Word) (ws : List Word) : State :=
  { State.reset with pc := origin, running := true, mem := Memory.writeWords [] origin ws }

/-- `s` with another word in memory. -/
def poke (s : State) (a v : Word) : State := s.setMem (s.mem.write a v)

/-- What `f` reads in the state after one step. -/
def after {α : Type} (s : State) (f : State → α) : Option α :=
  match step s with
  | .next t => some (f t)
  | .fault _ => none
  | .refused _ => none

/-- Vector O1. -/
theorem test_add_register :
    after (((loaded [0x1042]).setReg 1 3).setReg 2 4) (fun t => (t.reg 0, t.cond, t.pc)) = some (7, 0b001, 0x3001) := by
  decide

/-- Vector O12: both operands are read before the write. -/
theorem test_add_register_doubles :
    after ((loaded [0x1000]).setReg 0 2) (fun t => (t.reg 0, t.cond)) = some (4, 0b001) := by decide

/-- Vector O2: the sum wraps to negative. -/
theorem test_add_immediate_overflow :
    after ((loaded [0x1261]).setReg 1 0x7FFF) (fun t => (t.reg 1, t.cond)) = some (0x8000, 0b100) := by decide

/-- Vector O4: imm5 is sign-extended. -/
theorem test_add_immediate_negative :
    after ((loaded [0x1070]).setReg 1 0x0010) (fun t => (t.reg 0, t.cond)) = some (0, 0b010) := by decide

/-- Vector O7. -/
theorem test_and_register :
    after (((loaded [0x5642]).setReg 1 0xF0F0).setReg 2 0x8F00) (fun t => (t.reg 3, t.cond)) =
      some (0x8000, 0b100) := by decide

/-- Vector O8. -/
theorem test_and_immediate :
    after ((loaded [0x527F]).setReg 1 0x8001) (fun t => (t.reg 1, t.cond)) = some (0x8001, 0b100) := by decide

/-- Vector O11. -/
theorem test_not :
    after ((loaded [0x947F]).setReg 1 0x1234) (fun t => (t.reg 2, t.reg 1, t.cond)) =
      some (0xEDCB, 0x1234, 0b100) := by decide

/-- Vector B3: taken on N, not on Z. -/
theorem test_br_tests_the_flag :
    after ((loaded [0x0805]).setCond 0b100) State.pc = some 0x3006 ∧
    after ((loaded [0x0805]).setCond 0b010) State.pc = some 0x3001 := by decide

/-- Vector B7: the target wraps. -/
theorem test_br_wraps : after (loadedAt 0xFFFF [0x0E01]) State.pc = some 0x0001 := by decide

/-- Vector J1. -/
theorem test_jmp : after ((loaded [0xC0C0]).setReg 3 0x4000) State.pc = some 0x4000 := by decide

/-- Vector J2. -/
theorem test_ret : after ((loaded [0xC1C0]).setReg 7 0x1234) State.pc = some 0x1234 := by decide

/-- Vector J4. -/
theorem test_jsr_backwards :
    after (loaded [0x4C00]) (fun t => (t.reg 7, t.pc)) = some (0x3001, 0x2C01) := by decide

/-- Vector J6. -/
theorem test_jsrr :
    after ((loaded [0x4080]).setReg 2 0x5000) (fun t => (t.reg 7, t.pc)) = some (0x3001, 0x5000) := by decide

/-- Vector J7: the base is read after R7 is written. -/
theorem test_jsrr_r7_falls_through :
    after ((loaded [0x41C0]).setReg 7 0x5000) (fun t => (t.reg 7, t.pc)) = some (0x3001, 0x3001) := by decide

/-- Vector L3. -/
theorem test_ld_negative_offset :
    after (poke (loaded [0x2100]) 0x2F01 0x8000) (fun t => (t.reg 0, t.cond)) = some (0x8000, 0b100) := by decide

/-- Vector L2: pc wraps before the sum. -/
theorem test_ld_wraps :
    after (loadedAt 0xFFFF [0x2000, 0x0042]) (fun t => (t.reg 0, t.cond)) = some (0x0042, 0b001) := by decide

/-- Vector L7: the data, not the pointer. -/
theorem test_ldi :
    after (poke (poke (loaded [0xA206]) 0x3007 0x3009) 0x3009 0x1234) (fun t => (t.reg 1, t.cond)) =
      some (0x1234, 0b001) := by decide

/-- Vector L12: the status register through a pointer. -/
theorem test_ldi_polls_status :
    after ((loaded [0xA000, 0xFE00]).setInput [0x41]) (fun t => (t.reg 0, t.cond, t.kbReady, t.kbData, t.input)) =
      some (0x8000, 0b100, true, 0x41, []) := by decide

/-- Vector K1: the data register polls and consumes. -/
theorem test_ldi_takes_data :
    after ((loaded [0xA000, 0xFE02]).setInput [0x30, 0x31]) (fun t => (t.reg 0, t.kbReady, t.input)) =
      some (0x0030, false, [0x31]) := by decide

/-- Vector L4: the address wraps below zero. -/
theorem test_ldr_wraps :
    after (poke ((loaded [0x6060]).setReg 1 0x0010) 0xFFF0 7) (fun t => (t.reg 0, t.cond)) = some (7, 0b001) := by
  decide

/-- Vector L10: LEA sets the flags. -/
theorem test_lea_sets_flags :
    after (loadedAt 0x8000 [0xE000]) (fun t => (t.reg 0, t.cond)) = some (0x8001, 0b100) := by decide

/-- Vector T2: a store over the instruction itself. -/
theorem test_st_over_itself :
    after ((loaded [0x31FF]).setReg 0 0x1234) (fun t => (t.mem.read 0x3000, t.pc, t.cond)) =
      some (0x1234, 0x3001, 0b010) := by decide

/-- Vector T4, at 0x3000. -/
theorem test_sti :
    after (poke ((loaded [0xB406]).setReg 2 0xEDCB) 0x3007 0x3009) (fun t => (t.mem.read 0x3009, t.mem.read 0x3007)) =
      some (0xEDCB, 0x3009) := by decide

/-- Vector T5. -/
theorem test_str :
    after (((loaded [0x733F]).setReg 1 0x1234).setReg 4 0x3009) (fun t => t.mem.read 0x3008) = some 0x1234 := by
  decide

/-- Vector T6: a store to the status register is ignored. -/
theorem test_str_to_device_is_ignored :
    after (((loaded [0x7040]).setReg 0 0x1111).setReg 1 0xFE00) (fun t => (t.mem.read 0xFE00, t.pc)) =
      some (0, 0x3001) := by decide

/-- Vector P9v. -/
theorem test_getc :
    after ((loaded [0xF020]).setInput [0x61, 0x62]) (fun t => (t.reg 0, t.input, t.output, t.cond)) =
      some (0x0061, [0x62], [], 0b010) := by decide

/-- Vector P11v: held. -/
theorem test_getc_holds : after (loaded [0xF020]) (fun t => (t.pc, t.reg 0, t.running)) = some (0x3000, 0, true) := by
  decide

/-- Vector P1v. -/
theorem test_out : after ((loaded [0xF021]).setReg 0 0x1241) (fun t => (t.output, t.reg 0)) = some ([0x41], 0x1241) := by
  decide

/-- Vector P3v: a zero low byte in a non-zero word does not stop PUTS. -/
theorem test_puts :
    after (poke (poke ((loaded [0xF022]).setReg 0 0x4000) 0x4000 0x4100) 0x4001 0x0042) (fun t => (t.output, t.reg 0)) =
      some ([0x00, 0x42], 0x4000) := by decide

/-- Vector P12v. -/
theorem test_in :
    after { (loaded [0xF023]).setInput [0x79] with config := { Config.default with inPrompt := [0x3E, 0x20] } }
      (fun t => (t.output, t.reg 0)) = some ([0x3E, 0x20, 0x79], 0x0079) := by decide

/-- Vector P13v: held, with nothing written. -/
theorem test_in_holds : after (loaded [0xF023]) (fun t => (t.pc, t.output)) = some (0x3000, []) := by decide

/-- Vector P6v. -/
theorem test_putsp :
    after (poke (poke ((loaded [0xF024]).setReg 0 0x4000) 0x4000 0x4948) 0x4001 0x0021) State.output =
      some [0x48, 0x49, 0x21] := by decide

/-- Vector P7v: a zero low byte ends the string. -/
theorem test_putsp_stops_at_low_zero :
    after (poke (poke ((loaded [0xF024]).setReg 0 0x4000) 0x4000 0x4100) 0x4001 0x4242) State.output = some [] := by
  decide

/-- Vector P14v. -/
theorem test_halt :
    after (loaded [0xF025]) (fun t => (t.running, t.pc, t.output, t.fault)) = some (false, 0x3001, [], none) := by decide

/-- Vector P15v. -/
theorem test_unknown_trap :
    after (loaded [0xF026]) (fun t => (t.running, t.pc, t.fault)) =
      some (false, 0x3001, some ⟨.unknownTrap, 0x3000, 0xF026, 0x26⟩) := by decide

/-- Vector X2. -/
theorem test_illegal_1101 :
    after (loaded [0xDFFF]) (fun t => (t.running, t.pc, t.fault)) =
      some (false, 0x3001, some ⟨.illegalOpcode, 0x3000, 0xDFFF, 0b1101⟩) := by decide

/-- Vector X3. -/
theorem test_illegal_1000 :
    after (loaded [0x8000]) (fun t => (t.running, t.pc, t.fault)) =
      some (false, 0x3001, some ⟨.illegalOpcode, 0x3000, 0x8000, 0b1000⟩) := by decide

/-! ### Host commands -/

/-- Vector H1: the loader wraps. -/
theorem test_load_wraps :
    (State.reset.load [0xFF, 0xFF, 0x11, 0x11, 0x22, 0x22]).1 = .ok 0xFFFF ∧
    (State.reset.load [0xFF, 0xFF, 0x11, 0x11, 0x22, 0x22]).2.mem.read 0xFFFF = 0x1111 ∧
    (State.reset.load [0xFF, 0xFF, 0x11, 0x11, 0x22, 0x22]).2.mem.read 0x0000 = 0x2222 := by decide

/-- Vectors H2, H3. -/
theorem test_load_rejects :
    State.reset.load [0x30, 0x00, 0x10] = (.err .imageFormat, State.reset) ∧
    State.reset.load [] = (.err .imageFormat, State.reset) := by decide

/-- Vector H5: nothing runs before a load. -/
theorem test_step_before_load : after State.reset id = some State.reset := by decide

/-- The host's own question of the machine: a table word stored by `withFetchWord` is what the next step runs. -/
theorem test_with_fetch_word :
    decodeTableWord 16 0xF025 = some (.trapHalt 0) ∧
    after (State.reset.withFetchWord 16 0xF025) (fun t => (t.running, t.pc)) = some (false, 0x0001) := by decide

/-! ### Witnesses: states and operands that meet a statement's hypotheses -/

theorem witness_DecodeReadsBackEncode : (Instr.jmp 5 6 1).wellFormed = true ∧ (Instr.trap 0 0xFF).wellFormed = true := by
  decide

theorem witness_EveryWordIsOneInstruction : (Instr.trap 0 0x1F).wellFormed = true ∧ encode (.trap 0 0x1F) = 0xF01F := by
  decide

/-- One word for each row of TableRowsDecode, at an end of the row's range. -/
theorem witness_TableRowsDecode :
    (0x0FFF#16 &&& 0xF000 = 0x0000) ∧ (0x1FDF#16 &&& 0xF020 = 0x1000) ∧ (0x1FFF#16 &&& 0xF020 = 0x1020) ∧
    (0x2FFF#16 &&& 0xF000 = 0x2000) ∧ (0x3FFF#16 &&& 0xF000 = 0x3000) ∧ (0x4FFF#16 &&& 0xF800 = 0x4800) ∧
    (0x47FF#16 &&& 0xF800 = 0x4000) ∧ (0x5FDF#16 &&& 0xF020 = 0x5000) ∧ (0x5FFF#16 &&& 0xF020 = 0x5020) ∧
    (0x6FFF#16 &&& 0xF000 = 0x6000) ∧ (0x7FFF#16 &&& 0xF000 = 0x7000) ∧ (0x8FFF#16 &&& 0xF000 = 0x8000) ∧
    (0x9FFF#16 &&& 0xF000 = 0x9000) ∧ (0xAFFF#16 &&& 0xF000 = 0xA000) ∧ (0xBFFF#16 &&& 0xF000 = 0xB000) ∧
    (0xCFBF#16 &&& 0xF000 = 0xC000 ∧ 0xCFBF#16 &&& 0xF1C0 ≠ 0xC1C0) ∧ (0xCFFF#16 &&& 0xF1C0 = 0xC1C0) ∧
    (0xDFFF#16 &&& 0xF000 = 0xD000) ∧ (0xEFFF#16 &&& 0xF000 = 0xE000) ∧ (0xFF20#16 &&& 0xF0FF = 0xF020) ∧
    (0xFF21#16 &&& 0xF0FF = 0xF021) ∧ (0xFF22#16 &&& 0xF0FF = 0xF022) ∧ (0xFF23#16 &&& 0xF0FF = 0xF023) ∧
    (0xFF24#16 &&& 0xF0FF = 0xF024) ∧ (0xFF25#16 &&& 0xF0FF = 0xF025) ∧
    (0xF01F#16 &&& 0xF000 = 0xF000 ∧ (0xF01F#16).extractLsb 7 0 < 0x20) ∧
    (0xF026#16 &&& 0xF000 = 0xF000 ∧ 0x25 < (0xF026#16).extractLsb 7 0) := by decide

theorem witness_IgnoredBitsChangeNothing : (0x1018#16 ^^^ 0x1000#16) &&& ~~~ ignoredBits 0x1018 = 0 := by decide

theorem witness_ExtensionFollowsItsFormula :
    (0 < 1 ∧ 1 ≤ 16) ∧ (0 < 16 ∧ 16 ≤ 16) ∧ sext 0b11111#5 = 0xFFFF ∧ sext 0b01111#5 = 0x000F := by decide

theorem witness_EffectiveAddressesWrap : (11 ≤ 16) ∧ (loadedAt 0xFFFF []).fetch.2.pcRel 0x7FF#11 = 0xFFFF := by decide

theorem witness_NewSatisfiesInvariant : Config.default.wf := by decide

/-- A running core that satisfies the invariant. -/
theorem loaded_inv (ws : List Word) (h : (loaded ws).mem.wf = true) : Inv (loaded ws) where
  memCanonical := h
  condOneHot := .inr (.inl rfl)
  devicesDiffer := (by decide : Config.default.wf)
  faultHalted := fun _ e => by cases e

theorem witness_StepKeepsInvariant : Inv (loaded [0xF025]) ∧ ∃ t, step (loaded [0xF025]) = .next t :=
  ⟨loaded_inv _ (by decide), _, rfl⟩

theorem witness_HostCommandsKeepInvariant : Inv (loaded [0xF025]) := loaded_inv _ (by decide)

theorem witness_ReachableStatesSatisfyInvariant : Reachable (State.reset.load [0x30, 0x00, 0xF0, 0x25]).2 :=
  .command (.load [0x30, 0x00, 0xF0, 0x25]) State.reset _ (.new Config.default (by decide)) rfl

theorem witness_StepAlwaysAnswersNext : (loaded [0xF022]).config.wf := by decide

theorem witness_StepRunsDecodedInstruction :
    (loaded [0xF025]).running = true ∧ (Instr.trapHalt 0).wellFormed = true ∧
    (loaded [0xF025]).isDevice (loaded [0xF025]).pc = false ∧
    (loaded [0xF025]).mem.read (loaded [0xF025]).pc = encode (.trapHalt 0) := by decide

/-- A word for the encoding clause of each of AddRegisterWritesSumAndFlags, AddImmediateWritesSumAndFlags,
AndRegisterWritesBitsAndFlags, AndImmediateWritesBitsAndFlags, NotWritesComplementAndFlags, LdLoadsPcRelative,
LdrLoadsBaseRelative, LeaWritesAddressAndFlags, StStoresPcRelative and StrStoresBaseRelative. -/
theorem witness_encodingClauses :
    0x1E5F#16 &&& 0xF020 = 0x1000 ∧ 0x1E7F#16 &&& 0xF020 = 0x1020 ∧ 0x5E5F#16 &&& 0xF020 = 0x5000 ∧
    0x5E7F#16 &&& 0xF020 = 0x5020 ∧ 0x9E40#16 &&& 0xF000 = 0x9000 ∧ 0x2FFF#16 &&& 0xF000 = 0x2000 ∧
    0x6FFF#16 &&& 0xF000 = 0x6000 ∧ 0xEFFF#16 &&& 0xF000 = 0xE000 ∧ 0x3FFF#16 &&& 0xF000 = 0x3000 ∧
    0x7FFF#16 &&& 0xF000 = 0x7000 := by decide

theorem witness_OperateAndLeaFrame :
    (∃ t, exec (.addReg 0 1 0 2) (loaded []) = .next t) ∧ (∃ t, exec (.addImm 0 1 0) (loaded []) = .next t) ∧
    (∃ t, exec (.andReg 0 1 0 2) (loaded []) = .next t) ∧ (∃ t, exec (.andImm 0 1 0) (loaded []) = .next t) ∧
    (∃ t, exec (.not 0 1 0) (loaded []) = .next t) ∧ ∃ t, exec (.lea 0 0) (loaded []) = .next t :=
  ⟨⟨_, rfl⟩, ⟨_, rfl⟩, ⟨_, rfl⟩, ⟨_, rfl⟩, ⟨_, rfl⟩, _, rfl⟩

theorem witness_BrTakenWhenRequestedFlagIsSet :
    oneHot (loaded []).cond ∧ 0b010#3 &&& (loaded []).cond ≠ 0b000 ∧ ¬ (0b101#3 &&& (loaded []).cond ≠ 0b000) := by decide

theorem witness_RetReturnsThroughR7 :
    0xCFFF#16 &&& 0xF1C0 = 0xC1C0 ∧ (∃ t, exec (.jsr 0) (loaded []) = .next t ∧ t.reg 7 = t.reg 7) ∧
    ∃ t, exec (.jsrr 0 7 0) (loaded []) = .next t ∧ t.reg 7 = t.reg 7 :=
  ⟨by decide, ⟨_, rfl, rfl⟩, _, rfl, rfl⟩

theorem witness_ControlFrame :
    (∃ t, exec (.br 7 0) (loaded []) = .next t) ∧ (∃ t, exec (.jmp 0 0 0) (loaded []) = .next t) ∧
    (∃ t, exec (.ret 0 0) (loaded []) = .next t) ∧ (∃ t, exec (.jsr 0) (loaded []) = .next t) ∧
    ∃ t, exec (.jsrr 0 0 0) (loaded []) = .next t :=
  ⟨⟨_, rfl⟩, ⟨_, rfl⟩, ⟨_, rfl⟩, ⟨_, rfl⟩, _, rfl⟩

theorem witness_LdiLoadsThroughPointer :
    (loaded []).memRead ((loaded []).pc + sext 0#9) = (0x0000, loaded []) := by decide

theorem witness_LoadFrame :
    (∃ t, exec (.ld 0 0) (loaded []) = .next t) ∧ (∃ t, exec (.ldi 0 0) (loaded []) = .next t) ∧
    (∃ t, exec (.ldr 0 0 0) (loaded []) = .next t) ∧ (loaded []).isDevice ((loaded []).pcRel 0#9) = false ∧
    (loaded []).isDevice ((loaded []).baseRel 0 0) = false ∧
    (loaded []).isDevice ((loaded []).mem.read ((loaded []).pcRel 0#9)) = false :=
  ⟨⟨_, rfl⟩, ⟨_, rfl⟩, ⟨_, rfl⟩, by decide, by decide, by decide⟩

/-- ST, STR and STI at a plain and at a device address. -/
theorem witness_StStoresPcRelative_and_StrStoresBaseRelative :
    (loaded []).isDevice ((loaded []).pc + sext 0#9) = false ∧
    (loadedAt 0xFE00 []).isDevice ((loadedAt 0xFE00 []).pc + sext 0#9) = true ∧
    (loaded []).isDevice ((loaded []).reg 1 + sext 0#6) = false ∧
    ((loaded []).setReg 1 0xFE02).isDevice (((loaded []).setReg 1 0xFE02).reg 1 + sext 0#6) = true := by decide

theorem witness_StiStoresThroughPointer :
    (loaded [0x4000]).memRead ((loaded [0x4000]).pc + sext 0#9) = (0x4000, loaded [0x4000]) ∧
    (loaded [0x4000]).isDevice 0x4000 = false ∧
    (loaded [0xFE00]).memRead ((loaded [0xFE00]).pc + sext 0#9) = (0xFE00, loaded [0xFE00]) ∧
    (loaded [0xFE00]).isDevice 0xFE00 = true := by decide

theorem witness_StoreFrame :
    (∃ t, exec (.st 0 0) (loaded []) = .next t) ∧ (∃ t, exec (.sti 0 0) (loaded []) = .next t) ∧
    (∃ t, exec (.str 0 0 0) (loaded []) = .next t) ∧ (loaded []).isDevice ((loaded []).pcRel 0#9) = false ∧
    (loaded [0xFE00]).isDevice ((loaded [0xFE00]).memRead ((loaded [0xFE00]).pcRel 0#9)).1 = true :=
  ⟨⟨_, rfl⟩, ⟨_, rfl⟩, ⟨_, rfl⟩, by decide, by decide⟩

theorem witness_GetcAndInTakeNextCharacter :
    ((loaded []).setKbReady true).kbReady = true ∧
    ((loaded []).setInput [0x61]).kbReady = false ∧ ((loaded []).setInput [0x61]).input = [0x61] := by decide

theorem witness_GetcAndInHoldWithoutInput :
    (loaded [0xF020]).kbReady = false ∧ (loaded [0xF020]).input = [] ∧ (loaded [0xF020]).running = true ∧
    (loaded [0xF020]).isDevice (loaded [0xF020]).pc = false ∧
    (loaded [0xF020]).mem.read (loaded [0xF020]).pc = encode (.trapGetc 0) ∧
    (loaded [0xF023]).mem.read (loaded [0xF023]).pc = encode (.trapIn 0) := by decide

theorem witness_PutsRunsItsLoopToTheEnd : (loaded []).config.wf := by decide

theorem witness_PutsWritesPlainString :
    (∀ k, k < 1 → ((loaded [0x41]).setReg 0 0x3000).isDevice (0x3000 + BitVec.ofNat 16 k) = false ∧
      ((loaded [0x41]).setReg 0 0x3000).mem.read (0x3000 + BitVec.ofNat 16 k) ≠ 0x0000) ∧
    ((loaded [0x41]).setReg 0 0x3000).isDevice (0x3000 + BitVec.ofNat 16 1) = false ∧
    ((loaded [0x41]).setReg 0 0x3000).mem.read (0x3000 + BitVec.ofNat 16 1) = 0x0000 := by decide

theorem witness_PutspWritesPackedString :
    (∀ k, k < 1 → (loaded [0x4948, 0x21]).isDevice (0x3000 + BitVec.ofNat 16 k) = false ∧
      ((loaded [0x4948, 0x21]).mem.read (0x3000 + BitVec.ofNat 16 k)).extractLsb 7 0 ≠ 0x00 ∧
      ((loaded [0x4948, 0x21]).mem.read (0x3000 + BitVec.ofNat 16 k)).extractLsb 15 8 ≠ 0x00) ∧
    (loaded [0x4948, 0x21]).isDevice (0x3000 + BitVec.ofNat 16 1) = false ∧
    (loaded [0x4948, 0x21]).mem.read (0x3000 + BitVec.ofNat 16 1) = 0x0021 ∧ (0x0021#16).extractLsb 15 8 = 0x00 := by
  decide

theorem witness_FatalErrorsStopTheCore : (0x1F#8 < 0x20) ∧ (0x25 < 0x26#8) := by decide

/-- Does an outcome go on? -/
def answersNext (o : Host.Outcome State Fault Refusal) : Bool :=
  match o with
  | .next _ => true
  | .fault _ => false
  | .refused _ => false

theorem next_of_answers {o : Host.Outcome State Fault Refusal} (h : answersNext o = true) : ∃ t, o = .next t := by
  cases o with
  | next t => exact ⟨t, rfl⟩
  | fault _ => cases h
  | refused _ => cases h

theorem witness_TrapFrame :
    (∃ t, exec (.trapGetc 0) (loaded []) = .next t) ∧ (∃ t, exec (.trapIn 0) (loaded []) = .next t) ∧
    (∃ t, exec (.trapOut 0) (loaded []) = .next t) ∧ (∃ t, exec (.trapHalt 0) (loaded []) = .next t) ∧
    (∃ t, exec (.trap 0 0) (loaded []) = .next t) ∧ (∃ t, exec (.trapPuts 0) (loaded []) = .next t) ∧
    ∃ t, exec (.trapPutsp 0) (loaded []) = .next t :=
  ⟨⟨_, rfl⟩, ⟨_, rfl⟩, ⟨_, rfl⟩, ⟨_, rfl⟩, ⟨_, rfl⟩,
    next_of_answers (by decide), next_of_answers (by decide)⟩

theorem witness_CondWrittenOnlyByFlagSetters : ∃ t, exec (.ld 0 0) (loaded [0x2000, 0x8000]) = .next t := ⟨_, rfl⟩

theorem witness_StatusWrittenOnlyByHaltAndErrors :
    (∃ t, exec (.trapHalt 0) (loaded []) = .next t) ∧ isFatal (.trapHalt 0) = false ∧
    (∃ t, exec (.illegalD 0) (loaded []) = .next t) ∧ isFatal (.illegalD 0) = true :=
  ⟨⟨_, rfl⟩, rfl, ⟨_, rfl⟩, rfl⟩

theorem witness_StepReportsFollowStateMachine :
    State.reset.running = false ∧ (loaded [0xF025]).running = true ∧ (loaded [0xF025]).config.wf ∧
    isHalt (decode (loaded [0xF025]).fetch.1) = true ∧ isFatal (decode (loaded [0xD000]).fetch.1) = true ∧
    isHalt (decode (loaded [0xE000]).fetch.1) = false ∧ isFatal (decode (loaded [0xE000]).fetch.1) = false := by decide

/-- A fatal step, then a push, a failed load, a pop and a step; then a load that succeeds. -/
theorem witness_FatalErrorIsReportedOnce :
    ∃ t u, hostStep (loaded [0xD000]) = .next (.err ⟨.illegalOpcode, 0x3000, 0xD000, 0b1101⟩, t) ∧
      ReachedWithoutLoad t u ∧ (u.load [0x30, 0x00]).1 = .ok 0x3000 :=
  ⟨_, _, rfl,
    .command .step _ _
      (.command .popOutput _ _
        (.command (.load []) _ _
          (.command (.pushInput 0x61) _ _ .start (fun _ e => by cases e) rfl)
          (fun _ e => by cases e; exact ⟨.imageFormat, rfl⟩) rfl)
        (fun _ e => by cases e) rfl)
      (fun _ e => by cases e) rfl,
    rfl⟩

theorem witness_PlainMemoryReadsAndWrites :
    (0xFDFF#16 ≠ Config.default.kbsrAddr ∧ 0xFDFF#16 ≠ Config.default.kbdrAddr) ∧
    (0xFE01#16 ≠ Config.default.kbsrAddr ∧ 0xFE01#16 ≠ Config.default.kbdrAddr) := by decide

theorem witness_CanonicalMemoriesAreEqualData : Memory.wf (Memory.write [] 0xFFFF 0x0001) = true := by decide

theorem witness_KeyboardRegistersPollAndConsume :
    (loaded []).config.wf ∧ ((loaded []).setKbReady true).kbReady = true ∧ (loaded []).kbReady = false ∧
    (loaded []).input = [] ∧ ((loaded []).setInput [0x41]).input = [0x41] := by decide

theorem witness_StoredWordRunsNext :
    (loaded [0x3000]).running = true ∧ (loaded [0x3000]).isDevice (loaded [0x3000]).pc = false ∧
    (loaded [0x3000]).isDevice ((loaded [0x3000]).pc + 1) = false ∧
    (loaded [0x3000]).mem.read (loaded [0x3000]).pc = encode (.st 0 0) ∧ ∃ t, step (loaded [0x3000]) = .next t :=
  ⟨by decide, by decide, by decide, by decide, _, rfl⟩

/-- Two words, of which the second is the last at its address; an address the image does not reach. -/
theorem witness_LoadWritesImage :
    (∀ j, 1 < j → j < 2 → (0xFFFF#16) + BitVec.ofNat 16 j ≠ 0xFFFF + BitVec.ofNat 16 1) ∧
    ∀ i, i < 2 → (0xFFFF#16) + BitVec.ofNat 16 i ≠ 0x0001 := by
  constructor
  · intro j h h'; omega
  · decide

theorem witness_LoadRejectsMalformedImages :
    ([0x30#8].length % 2 = 1) ∧ [0x30#8, 0x00#8] ≠ [] ∧ [0x30#8, 0x00#8].length % 2 = 0 := by decide

theorem witness_HostPortsQueueAndInspect :
    ((loaded []).setOutput [0x41]).output = [0x41] ∧ (loaded []).output = [] := by decide

/-- A point with a push and a pop before each kind of step, and one with the signal set. -/
theorem witness_RunChecksSignalBeforeEachStep :
    let p : RunPoint := { pushed := [0x61], pops := 1, stop := false }
    (∃ t, hostStep ((loaded [0xF025]).atPoint p).2 = .next (.halted, t)) ∧
    (∃ t, hostStep ((loaded [0xD000]).atPoint p).2 =
      .next (.err ⟨.illegalOpcode, 0x3000, 0xD000, 0b1101⟩, t)) ∧
    (∃ t result popped u, hostStep ((loaded [0xE000]).atPoint p).2 = .next (.continued, t) ∧
      run [{ pushed := [], pops := 2, stop := true }] t = .next (result, popped, u)) :=
  ⟨⟨_, rfl⟩, ⟨_, rfl⟩, _, _, _, _, rfl, rfl⟩

end Sys2Proof.Tests
end

section
/-! The numbers of 00_scope.md: what `sext` and `zext` do to a field of any width (R11). -/

namespace Sys2Proof.Machine

/-- The mask of R11 sets bit N and every bit above it. -/
theorem getElem_onesShiftLeft (n i : Nat) (hi : i < 16) : (0xFFFF#16 <<< n)[i] = !decide (i < n) := by
  have ones : 0xFFFF#16 = BitVec.allOnes 16 := rfl
  rw [BitVec.getElem_shiftLeft, ones, BitVec.getElem_allOnes, Bool.and_true]

theorem sext_of_signBit_clear {n : Nat} {v : BitVec n} (h : v.getLsbD (n - 1) = false) :
    sext v = v.setWidth 16 :=
  BitVec.signExtend_eq_setWidth_of_msb_false (v.msb_eq_getLsbD_last.trans h)

/-- Below bit N both sides hold the field's bits; from bit N on, the sign on the left and the mask on the right. -/
theorem sext_of_signBit_set {n : Nat} {v : BitVec n} (h : v.getLsbD (n - 1) = true) :
    sext v = v.setWidth 16 ||| (0xFFFF#16 <<< n) := by
  have hmsb : v.msb = true := v.msb_eq_getLsbD_last.trans h
  ext i hi
  rw [sext, BitVec.getElem_signExtend, BitVec.getElem_or, getElem_onesShiftLeft, BitVec.getElem_setWidth]
  by_cases hin : i < n
  · simp [hin]
  · simp [hin, hmsb]

theorem toNat_zext {n : Nat} (v : BitVec n) (hn : n ≤ 16) : (zext v).toNat = v.toNat :=
  BitVec.toNat_setWidth_of_le hn

/-- Settles O6, by the two values of the field's sign bit. -/
theorem extensionFollowsItsFormula : Obligations.ExtensionFollowsItsFormula := by
  intro n v _ hn
  refine ⟨?_, toNat_zext v hn⟩
  split
  case isTrue h => exact sext_of_signBit_set h
  case isFalse h => exact sext_of_signBit_clear (Bool.eq_false_of_not_eq_true h)

end Sys2Proof.Machine
end

section
/-! Who writes COND (10_state.md R29): every flag setter ends in `writeResult`, and no other instruction touches COND. -/

namespace Sys2Proof.Machine

/-! ### COND under the shared operations -/

@[simp] theorem State.out_cond (s : State) (b : Byte) : (s.out b).cond = s.cond := rfl
@[simp] theorem State.hold_cond (s : State) : s.hold.cond = s.cond := rfl
@[simp] theorem State.halt_cond (s : State) : s.halt.cond = s.cond := rfl
@[simp] theorem State.raiseFatal_cond (s : State) (kind : FatalKind) (ir detail : Word) :
    (s.raiseFatal kind ir detail).cond = s.cond := rfl

/-- The flags `writeResult` leaves are those of the value then in DR. -/
theorem State.writeResult_cond (s : State) (dr : Reg) (v : Word) :
    (s.writeResult dr v).cond = condOf ((s.writeResult dr v).reg dr) := by
  simp [State.writeResult_eq]

/-! ### What GETC and IN can do -/

/-- GETC takes a character into R0, or holds (44_trap.md R171, R179). -/
theorem execTrapGetc_cases {s t : State} (h : execTrapGetc s = .next t) :
    (∃ c, s.kbdTake.1 = some c ∧ t = s.kbdTake.2.setReg 0 (zext c)) ∨
    (s.kbdTake.1 = none ∧ t = s.kbdTake.2.hold) := by
  unfold execTrapGetc at h
  split at h
  case h_1 c u e => cases h; exact .inl ⟨c, by rw [e], by rw [e]⟩
  case h_2 u e => cases h; exact .inr ⟨by rw [e], by rw [e]⟩

/-- IN writes the prompt and the echo and takes the character into R0, or holds (R174, R179). -/
theorem execTrapIn_cases {s t : State} (h : execTrapIn s = .next t) :
    (∃ c, s.kbdTake.1 = some c ∧
      t = ((s.kbdTake.2.setOutput (s.kbdTake.2.output ++ s.kbdTake.2.config.inPrompt)).out c).setReg 0 (zext c)) ∨
    (s.kbdTake.1 = none ∧ t = s.kbdTake.2.hold) := by
  unfold execTrapIn at h
  split at h
  case h_1 c u e => cases h; exact .inl ⟨c, by rw [e], by rw [e]⟩
  case h_2 u e => cases h; exact .inr ⟨by rw [e], by rw [e]⟩

theorem execTrapGetc_cond {s t : State} (h : execTrapGetc s = .next t) : t.cond = s.cond := by
  obtain ⟨c, -, rfl⟩ | ⟨-, rfl⟩ := execTrapGetc_cases h <;> simp

theorem execTrapIn_cond {s t : State} (h : execTrapIn s = .next t) : t.cond = s.cond := by
  obtain ⟨c, -, rfl⟩ | ⟨-, rfl⟩ := execTrapIn_cases h <;> simp

theorem execBr_cond {nzp : BitVec 3} {off : BitVec 9} {s t : State} (h : execBr nzp off s = .next t) :
    t.cond = s.cond := by
  cases h
  split <;> simp

/-! ### The two kinds of instruction -/

/-- R29: a flag setter's last act is `writeResult` on its DR, from the state its memory reads leave. -/
theorem exec_flagSetter_eq_writeResult {i : Instr} {dr : Reg} {s t : State} (hd : flagSetterDest i = some dr)
    (h : exec i s = .next t) : ∃ (u : State) (v : Word), t = u.writeResult dr v := by
  cases i with
  | addReg | addImm | andReg | andImm | not | ld | ldi | ldr | lea =>
    cases hd; cases h
    exact ⟨_, _, rfl⟩
  | _ => cases hd

/-- R29: an instruction with no flag-setting DR leaves COND as it was. -/
theorem exec_cond_of_not_flagSetter {i : Instr} {s t : State} (hd : flagSetterDest i = none)
    (h : exec i s = .next t) : t.cond = s.cond := by
  cases i with
  | addReg | addImm | andReg | andImm | not | ld | ldi | ldr | lea => cases hd
  | br => exact execBr_cond h
  | jmp | ret | jsr | jsrr | st | sti | str | illegal8 | illegalD | trapOut | trapHalt | trap => cases h; simp
  | trapGetc => exact execTrapGetc_cond h
  | trapIn => exact execTrapIn_cond h
  | trapPuts => exact (execTrapPuts_changes h).cond
  | trapPutsp => exact (execTrapPutsp_changes h).cond

/-- Settles O46, by whether the instruction has a flag-setting DR. -/
theorem condWrittenOnlyByFlagSetters : Obligations.CondWrittenOnlyByFlagSetters := by
  intro i s t h
  split
  case h_1 dr hd =>
    obtain ⟨u, v, rfl⟩ := exec_flagSetter_eq_writeResult hd h
    exact u.writeResult_cond dr v
  case h_2 hd => exact exec_cond_of_not_flagSetter hd h

end Sys2Proof.Machine
end

section
/-! Plain addresses (20_memory.md R53, R54). -/

namespace Sys2Proof.Machine

theorem State.isDevice_eq_false {s : State} {a : Word} (hks : a ≠ s.config.kbsrAddr) (hkd : a ≠ s.config.kbdrAddr) :
    s.isDevice a = false := by
  simp [State.isDevice, hks, hkd]

theorem State.memWrite_plain (s : State) (a v : Word) (h : s.isDevice a = false) :
    s.memWrite a v = s.setMem (s.mem.write a v) := by
  simp [State.memWrite, h]

/-- Settles O51, from the rules for a read of, and a write to, an address that is no device. -/
theorem plainMemoryReadsAndWrites : Obligations.PlainMemoryReadsAndWrites := by
  intro s a v hks hkd
  have plain : s.isDevice a = false := State.isDevice_eq_false hks hkd
  refine ⟨s.memRead_plain a plain, ?memoryAlone, ?words⟩
  case memoryAlone =>
    rw [s.memWrite_plain a v plain]
    rfl
  case words =>
    intro b
    simp [s.read_memWrite a v b, plain]

end Sys2Proof.Machine
end

section
/-! The two effective addresses as integer sums modulo 2^16 (30_encoding.md R87). -/

namespace Sys2Proof.Machine

/-- As integers modulo 2^16, a sign-extended field is the field's signed value. -/
theorem toNat_sext {n : Nat} (off : BitVec n) : ((sext off).toNat : Int) = off.toInt % 65536 := by
  have unfolded : sext off = BitVec.ofInt 16 off.toInt := rfl
  rw [unfolded, BitVec.toNat_ofInt]
  omega

/-- The sum both address forms share, whatever the base word is. -/
theorem toNat_add_sext {n : Nat} (a : Word) (off : BitVec n) :
    ((a + sext off).toNat : Int) = ((a.toNat : Int) + off.toInt) % 65536 := by
  have field := toNat_sext off
  rw [BitVec.toNat_add]
  omega

theorem State.toNat_pcRel {n : Nat} (s : State) (off : BitVec n) :
    ((s.pcRel off).toNat : Int) = ((s.pc.toNat : Int) + off.toInt) % 65536 :=
  toNat_add_sext s.pc off

theorem State.toNat_baseRel (s : State) (base : Reg) (off : BitVec 6) :
    ((s.baseRel base off).toNat : Int) = (((s.reg base).toNat : Int) + off.toInt) % 65536 :=
  toNat_add_sext (s.reg base) off

/-- Settles O7: the fetch increments pc, which may wrap before the offset is added, and leaves the registers alone. -/
theorem effectiveAddressesWrap : Obligations.EffectiveAddressesWrap := by
  intro s n off base off6 _
  constructor
  case left =>
    have fetched : (s.pc + 1).toNat = (s.pc.toNat + 1) % 65536 := BitVec.toNat_add s.pc 1
    rw [State.toNat_pcRel, State.fetch_pc, fetched]
    omega
  case right =>
    rw [State.toNat_baseRel, State.reg_fetch]

end Sys2Proof.Machine
end

section
/-! Words whose opcode a row's mask fixes (30_encoding.md R82, R90). -/

namespace Sys2Proof

/-- The table's mask 0xF000 keeps the opcode bits. -/
theorem opcodeOf_and_opcodeMask (w : Word) : opcodeOf (w &&& 0xF000) = opcodeOf w := by
  have maskBits : field 0xF000 12 4 = BitVec.allOnes 4 := by decide
  have opcodeBits : field (w &&& 0xF000) 12 4 = field w 12 4 := by
    calc field (w &&& 0xF000) 12 4
      _ = field w 12 4 &&& field 0xF000 12 4 := BitVec.extractLsb'_and
      _ = field w 12 4 := by rw [maskBits, BitVec.and_allOnes]
  rw [opcodeOf, opcodeBits, opcodeOf]

/-- A word that matches a row under the mask 0xF000 has the opcode of the row's match. -/
theorem opcodeOf_of_masked {w m : Word} (h : w &&& 0xF000 = m) : opcodeOf w = opcodeOf m := by
  rw [← h, opcodeOf_and_opcodeMask]

theorem decode_of_opcodeOf_ld {w : Word} (h : opcodeOf w = .ld) : decode w = .ld (regField w 9) (field w 0 9) := by
  simp [decode, h]

theorem decode_of_opcodeOf_ldr {w : Word} (h : opcodeOf w = .ldr) :
    decode w = .ldr (regField w 9) (regField w 6) (field w 0 6) := by
  simp [decode, h]

theorem decode_of_opcodeOf_lea {w : Word} (h : opcodeOf w = .lea) : decode w = .lea (regField w 9) (field w 0 9) := by
  simp [decode, h]

end Sys2Proof
end

section
/-! The loads LD and LDR, and LEA (42_load.md R140, R142, R143). -/

namespace Sys2Proof.Machine

/-! ### The meanings by their shared last acts -/

theorem exec_ld (dr : Reg) (off : BitVec 9) (s : State) :
    exec (.ld dr off) s = .next (s.loadFrom dr (s.pcRel off)) := rfl

theorem exec_ldr (dr base : Reg) (off : BitVec 6) (s : State) :
    exec (.ldr dr base off) s = .next (s.loadFrom dr (s.baseRel base off)) := rfl

theorem exec_lea (dr : Reg) (off : BitVec 9) (s : State) :
    exec (.lea dr off) s = .next (s.writeResult dr (s.pcRel off)) := rfl

/-- The whole next state of a load: the read's own effects, then DR and COND. No read touches the registers, so they
are those from before it. -/
theorem State.loadFrom_eq (s : State) (dr : Reg) (ea : Word) :
    s.loadFrom dr ea = { (s.memRead ea).2 with
      regs := s.regs.set dr (s.memRead ea).1
      cond := condOf (s.memRead ea).1 } := by
  rw [← s.memRead_regs ea]
  rfl

/-- Settles O27: the mask fixes LD's opcode, and the meaning is a load from the PC-relative address. -/
theorem ldLoadsPcRelative : Obligations.LdLoadsPcRelative := by
  constructor
  case left =>
    intro w hw
    have matchOpcode : opcodeOf 0x2000 = .ld := by decide
    exact decode_of_opcodeOf_ld ((opcodeOf_of_masked hw).trans matchOpcode)
  case right =>
    intro dr off s
    rw [exec_ld, State.loadFrom_eq, State.pcRel]

/-- Settles O29: the mask fixes LDR's opcode, and the meaning is a load from the base-relative address. -/
theorem ldrLoadsBaseRelative : Obligations.LdrLoadsBaseRelative := by
  constructor
  case left =>
    intro w hw
    have matchOpcode : opcodeOf 0x6000 = .ldr := by decide
    exact decode_of_opcodeOf_ldr ((opcodeOf_of_masked hw).trans matchOpcode)
  case right =>
    intro dr base off s
    rw [exec_ldr, State.loadFrom_eq, State.baseRel]

/-- Settles O30: the mask fixes LEA's opcode, and the meaning writes the PC-relative address as the result. -/
theorem leaWritesAddressAndFlags : Obligations.LeaWritesAddressAndFlags := by
  constructor
  case left =>
    intro w hw
    have matchOpcode : opcodeOf 0xE000 = .lea := by decide
    exact decode_of_opcodeOf_lea ((opcodeOf_of_masked hw).trans matchOpcode)
  case right =>
    intro dr off s
    rw [exec_lea, State.writeResult_eq, State.pcRel]
    rfl

end Sys2Proof.Machine
end

section
/-! The stores ST and STR (43_store.md R160, R162). -/

namespace Sys2Proof

theorem decode_of_opcodeOf_st {w : Word} (h : opcodeOf w = .st) : decode w = .st (regField w 9) (field w 0 9) := by
  simp [decode, h]

theorem decode_of_opcodeOf_str {w : Word} (h : opcodeOf w = .str) :
    decode w = .str (regField w 9) (regField w 6) (field w 0 6) := by
  simp [decode, h]

end Sys2Proof

namespace Sys2Proof.Machine

theorem exec_st (sr : Reg) (off : BitVec 9) (s : State) :
    exec (.st sr off) s = .next (s.memWrite (s.pcRel off) (s.reg sr)) := rfl

theorem exec_str (sr base : Reg) (off : BitVec 6) (s : State) :
    exec (.str sr base off) s = .next (s.memWrite (s.baseRel base off) (s.reg sr)) := rfl

/-- R54: a plain address reads as the word just stored there. -/
theorem State.read_memWrite_same_of_plain (s : State) (a v : Word) (h : s.isDevice a = false) :
    (s.memWrite a v).mem.read a = v := by
  rw [s.read_memWrite a v a, if_pos ⟨h, rfl⟩]

/-- Settles O32: the mask fixes ST's opcode, and the meaning is a `memWrite` at the PC-relative address. -/
theorem stStoresPcRelative : Obligations.StStoresPcRelative := by
  constructor
  case left =>
    intro w hw
    have matchOpcode : opcodeOf 0x3000 = .st := by decide
    exact decode_of_opcodeOf_st ((opcodeOf_of_masked hw).trans matchOpcode)
  case right =>
    intro sr off s
    exact ⟨_, exec_st sr off s, rfl, s.read_memWrite_same_of_plain (s.pcRel off) (s.reg sr)⟩

/-- Settles O34: the mask fixes STR's opcode, and the meaning is a `memWrite` at the base-relative address. -/
theorem strStoresBaseRelative : Obligations.StrStoresBaseRelative := by
  constructor
  case left =>
    intro w hw
    have matchOpcode : opcodeOf 0x7000 = .str := by decide
    exact decode_of_opcodeOf_str ((opcodeOf_of_masked hw).trans matchOpcode)
  case right =>
    intro sr base off s
    exact ⟨_, exec_str sr base off s, rfl, s.read_memWrite_same_of_plain (s.baseRel base off) (s.reg sr)⟩

end Sys2Proof.Machine
end

section
/-! The TRAP routine OUT (44_trap.md R172). -/

namespace Sys2Proof.Machine

/-- The low byte in the notation of R172, bits 7 to 0. -/
theorem lowByte_eq_extractLsb (w : Word) : lowByte w = w.extractLsb 7 0 := rfl

theorem exec_trapOut (ign : BitVec 4) (s : State) :
    exec (.trapOut ign) s = .next (s.out (lowByte (s.reg 0))) := rfl

/-- Settles O38: 0xF021 is the word of OUT with its ignored bits clear, and the meaning is one `out` of R0's low byte. -/
theorem outAppendsLowByteOfR0 : Obligations.OutAppendsLowByteOfR0 := by
  constructor
  case left =>
    have wordOfOut : encode (.trapOut 0) = 0xF021 := by decide
    rw [← wordOfOut]
    exact Laws.DecodeEncode.trapOut 0 rfl
  case right =>
    intro ign s
    rw [exec_trapOut, State.out_eq, lowByte_eq_extractLsb, State.setOutput]

end Sys2Proof.Machine
end

section
/-! The decoder reads every well-formed instruction back (30_encoding.md R84, R94). -/

namespace Sys2Proof

/-- Settles O1: each constructor's round trip is a law of its own. -/
theorem decodeReadsBackEncode : Obligations.DecodeReadsBackEncode := by
  intro i wf
  cases i with
  | br nzp off => exact Laws.DecodeEncode.br nzp off wf
  | addReg dr sr1 ign sr2 => exact Laws.DecodeEncode.addReg dr sr1 ign sr2 wf
  | addImm dr sr1 imm => exact Laws.DecodeEncode.addImm dr sr1 imm wf
  | ld dr off => exact Laws.DecodeEncode.ld dr off wf
  | st sr off => exact Laws.DecodeEncode.st sr off wf
  | jsr off => exact Laws.DecodeEncode.jsr off wf
  | jsrr ignHi base ignLo => exact Laws.DecodeEncode.jsrr ignHi base ignLo wf
  | andReg dr sr1 ign sr2 => exact Laws.DecodeEncode.andReg dr sr1 ign sr2 wf
  | andImm dr sr1 imm => exact Laws.DecodeEncode.andImm dr sr1 imm wf
  | ldr dr base off => exact Laws.DecodeEncode.ldr dr base off wf
  | str sr base off => exact Laws.DecodeEncode.str sr base off wf
  | illegal8 ign => exact Laws.DecodeEncode.illegal8 ign wf
  | not dr sr ign => exact Laws.DecodeEncode.not dr sr ign wf
  | ldi dr off => exact Laws.DecodeEncode.ldi dr off wf
  | sti sr off => exact Laws.DecodeEncode.sti sr off wf
  | jmp ignHi base ignLo => exact Laws.DecodeEncode.jmp ignHi base ignLo wf
  | ret ignHi ignLo => exact Laws.DecodeEncode.ret ignHi ignLo wf
  | illegalD ign => exact Laws.DecodeEncode.illegalD ign wf
  | lea dr off => exact Laws.DecodeEncode.lea dr off wf
  | trapGetc ign => exact Laws.DecodeEncode.trapGetc ign wf
  | trapOut ign => exact Laws.DecodeEncode.trapOut ign wf
  | trapPuts ign => exact Laws.DecodeEncode.trapPuts ign wf
  | trapIn ign => exact Laws.DecodeEncode.trapIn ign wf
  | trapPutsp ign => exact Laws.DecodeEncode.trapPutsp ign wf
  | trapHalt ign => exact Laws.DecodeEncode.trapHalt ign wf
  | trap ign vect => exact Laws.DecodeEncode.trap ign vect wf

end Sys2Proof
end

section
/-! The rows of the opcode table (30_encoding.md R83, R90): what the bits under a row's mask say of a word's fields, and
what the decoder makes of each opcode. -/

namespace Sys2Proof

/-! ### Fields under a mask -/

/-- A field whose bits are all under a row's mask is that field of the row's match. -/
theorem field_of_row {w m v : Word} {lo n : Nat} {b : BitVec n} (h : w &&& m = v)
    (covered : field m lo n = BitVec.allOnes n := by decide) (hb : field v lo n = b := by decide) :
    field w lo n = b := by
  calc field w lo n
    _ = field w lo n &&& field m lo n := by rw [covered, BitVec.and_allOnes]
    _ = field (w &&& m) lo n := BitVec.extractLsb'_and.symm
    _ = b := by rw [h, hb]

theorem opcodeOf_of_row {w m v : Word} {op : Opcode} (h : w &&& m = v)
    (covered : field m 12 4 = BitVec.allOnes 4 := by decide) (hop : opcodeOf v = op := by decide) :
    opcodeOf w = op := by
  have opcodeBits : field w 12 4 = field v 12 4 := field_of_row h covered rfl
  rw [opcodeOf, opcodeBits, ← opcodeOf, hop]

/-! ### One equation for each branch of the decoder -/

section
variable {w : Word}

theorem decode_of_opcodeOf_br (h : opcodeOf w = .br) : decode w = .br (field w 9 3) (field w 0 9) := by
  simp [decode, h]

theorem decode_of_opcodeOf_add_register (h : opcodeOf w = .add) (mode : field w 5 1 = 0b0#1) :
    decode w = .addReg (regField w 9) (regField w 6) (field w 3 2) (regField w 0) := by
  simp [decode, h, mode]

theorem decode_of_opcodeOf_add_immediate (h : opcodeOf w = .add) (mode : field w 5 1 = 0b1#1) :
    decode w = .addImm (regField w 9) (regField w 6) (field w 0 5) := by
  simp [decode, h, mode]

theorem decode_of_opcodeOf_jsr (h : opcodeOf w = .jsr) (mode : field w 11 1 = 0b1#1) :
    decode w = .jsr (field w 0 11) := by
  simp [decode, h, mode]

theorem decode_of_opcodeOf_jsrr (h : opcodeOf w = .jsr) (mode : field w 11 1 = 0b0#1) :
    decode w = .jsrr (field w 9 2) (regField w 6) (field w 0 6) := by
  simp [decode, h, mode]

theorem decode_of_opcodeOf_and_register (h : opcodeOf w = .and) (mode : field w 5 1 = 0b0#1) :
    decode w = .andReg (regField w 9) (regField w 6) (field w 3 2) (regField w 0) := by
  simp [decode, h, mode]

theorem decode_of_opcodeOf_and_immediate (h : opcodeOf w = .and) (mode : field w 5 1 = 0b1#1) :
    decode w = .andImm (regField w 9) (regField w 6) (field w 0 5) := by
  simp [decode, h, mode]

theorem decode_of_opcodeOf_op1000 (h : opcodeOf w = .op1000) : decode w = .illegal8 (field w 0 12) := by
  simp [decode, h]

theorem decode_of_opcodeOf_not (h : opcodeOf w = .not) :
    decode w = .not (regField w 9) (regField w 6) (field w 0 6) := by
  simp [decode, h]

theorem decode_of_opcodeOf_ldi (h : opcodeOf w = .ldi) : decode w = .ldi (regField w 9) (field w 0 9) := by
  simp [decode, h]

theorem decode_of_opcodeOf_sti (h : opcodeOf w = .sti) : decode w = .sti (regField w 9) (field w 0 9) := by
  simp [decode, h]

theorem regField_eq_seven : regField w 6 = 7 ↔ field w 6 3 = 0b111#3 :=
  (BitVec.toFin_inj (y := 0b111#3))

theorem decode_of_opcodeOf_jmp (h : opcodeOf w = .jmp) (base : field w 6 3 ≠ 0b111#3) :
    decode w = .jmp (field w 9 3) (regField w 6) (field w 0 6) := by
  simp [decode, h, regField_eq_seven, base]

theorem decode_of_opcodeOf_ret (h : opcodeOf w = .jmp) (base : field w 6 3 = 0b111#3) :
    decode w = .ret (field w 9 3) (field w 0 6) := by
  simp [decode, h, regField_eq_seven, base]

theorem decode_of_opcodeOf_op1101 (h : opcodeOf w = .op1101) : decode w = .illegalD (field w 0 12) := by
  simp [decode, h]

theorem decode_of_opcodeOf_trap (h : opcodeOf w = .trap) : decode w = decodeTrap (field w 8 4) (field w 0 8) := by
  simp [decode, h]

theorem decode_of_trapVector {v : BitVec 8} (h : opcodeOf w = .trap) (hv : field w 0 8 = v) :
    decode w = decodeTrap (field w 8 4) v := by
  rw [decode_of_opcodeOf_trap h, hv]

end

/-! ### The vectors -/

theorem knownVector_eq_false_iff {v : BitVec 8} : knownVector v = false ↔ v < 0x20#8 ∨ 0x25#8 < v := by
  simp [knownVector, BitVec.not_le, or_iff_not_imp_left]

theorem decodeTrap_of_unknown {ign : BitVec 4} {v : BitVec 8} (h : knownVector v = false) :
    decodeTrap ign v = .trap ign v := by
  have other (k : BitVec 8) (hk : knownVector k = true) : v ≠ k := by
    rintro rfl
    simp [hk] at h
  simp [decodeTrap, other 0x20#8 (by decide), other 0x21#8 (by decide), other 0x22#8 (by decide),
    other 0x23#8 (by decide), other 0x24#8 (by decide), other 0x25#8 (by decide)]

/-- A known vector is one of the six, each with its routine (R90, R170). -/
theorem decodeTrap_of_known {v : BitVec 8} (ign : BitVec 4) (h : knownVector v = true) :
    (v = 0x20#8 ∧ decodeTrap ign v = .trapGetc ign) ∨ (v = 0x21#8 ∧ decodeTrap ign v = .trapOut ign) ∨
    (v = 0x22#8 ∧ decodeTrap ign v = .trapPuts ign) ∨ (v = 0x23#8 ∧ decodeTrap ign v = .trapIn ign) ∨
    (v = 0x24#8 ∧ decodeTrap ign v = .trapPutsp ign) ∨ (v = 0x25#8 ∧ decodeTrap ign v = .trapHalt ign) := by
  have six : v = 0x20#8 ∨ v = 0x21#8 ∨ v = 0x22#8 ∨ v = 0x23#8 ∨ v = 0x24#8 ∨ v = 0x25#8 := by
    simp only [knownVector, Bool.and_eq_true, decide_eq_true_eq] at h
    bv_omega
  obtain rfl | rfl | rfl | rfl | rfl | rfl := six <;> simp [decodeTrap]

end Sys2Proof
end

section
/-! Every word is the word of the instruction it decodes to (30_encoding.md R82, R94). -/

namespace Sys2Proof

/-! ### A word from its fields -/

/-- Two adjacent fields are one field. -/
theorem field_append_field (w : Word) {hi lo n m : Nat} (h : hi = lo + m := by rfl) :
    field w hi n ++ field w lo m = field w lo (n + m) := by
  subst h
  exact append_extract w lo

theorem toWord_field (w : Word) {n : Nat} (h : n = 16) : toWord (field w 0 n) h = w := by
  subst h
  exact BitVec.extractLsb'_eq_self

/-- The opcode bits of a word with a known opcode. -/
theorem field_opcode {w : Word} {b : BitVec 4} {op : Opcode} (h : opcodeOf w = op)
    (hb : opcodeOfBits b = op := by decide) : field w 12 4 = b :=
  opcodeOfBits_inj (h.trans hb.symm)

/-- A one-bit field that is not 1 is 0. -/
theorem bit_eq_zero {b : BitVec 1} (h : b ≠ 0b1#1) : b = 0b0#1 := by
  revert b; decide

section
variable {w : Word} {op : BitVec 4} (hop : field w 12 4 = op)
include hop

/-! The formats of R84, each put together again from the fields of `w`. -/

theorem word_of_opcode_12 : toWord (op ++ field w 0 12) = w := by
  subst hop
  rw [field_append_field, toWord_field]

theorem word_of_opcode_3_9 : toWord (op ++ field w 9 3 ++ field w 0 9) = w := by
  subst hop
  rw [field_append_field, field_append_field, toWord_field]

theorem word_of_opcode_3_3_6 {r : BitVec 3} (base : field w 6 3 = r) :
    toWord (op ++ field w 9 3 ++ r ++ field w 0 6) = w := by
  subst hop base
  rw [field_append_field, field_append_field, field_append_field, toWord_field]

theorem word_of_opcode_1_11 {b : BitVec 1} (mode : field w 11 1 = b) : toWord (op ++ b ++ field w 0 11) = w := by
  subst hop mode
  rw [field_append_field, field_append_field, toWord_field]

theorem word_of_opcode_1_2_3_6 {b : BitVec 1} (mode : field w 11 1 = b) :
    toWord (op ++ b ++ field w 9 2 ++ field w 6 3 ++ field w 0 6) = w := by
  subst hop mode
  rw [field_append_field, field_append_field, field_append_field, field_append_field, toWord_field]

theorem word_of_opcode_3_3_1_5 {b : BitVec 1} (mode : field w 5 1 = b) :
    toWord (op ++ field w 9 3 ++ field w 6 3 ++ b ++ field w 0 5) = w := by
  subst hop mode
  rw [field_append_field, field_append_field, field_append_field, field_append_field, toWord_field]

theorem word_of_opcode_3_3_1_2_3 {b : BitVec 1} (mode : field w 5 1 = b) :
    toWord (op ++ field w 9 3 ++ field w 6 3 ++ b ++ field w 3 2 ++ field w 0 3) = w := by
  subst hop mode
  rw [field_append_field, field_append_field, field_append_field, field_append_field, field_append_field,
    toWord_field]

theorem word_of_opcode_4_8 {v : BitVec 8} (vect : field w 0 8 = v) : toWord (op ++ field w 8 4 ++ v) = w := by
  subst hop vect
  rw [field_append_field, field_append_field, toWord_field]

end

/-! ### Encode after decode -/

theorem decode_trap_roundTrip {w : Word} (h : opcodeOf w = .trap) :
    (decode w).wellFormed = true ∧ encode (decode w) = w := by
  rw [decode_of_opcodeOf_trap h]
  cases known : knownVector (field w 0 8) with
  | false =>
    rw [decodeTrap_of_unknown known]
    exact ⟨by simp [Instr.wellFormed, known], word_of_opcode_4_8 (field_opcode h) rfl⟩
  | true =>
    obtain ⟨vect, row⟩ | ⟨vect, row⟩ | ⟨vect, row⟩ | ⟨vect, row⟩ | ⟨vect, row⟩ | ⟨vect, row⟩ :=
      decodeTrap_of_known (field w 8 4) known
    all_goals
      rw [row]
      exact ⟨rfl, word_of_opcode_4_8 (field_opcode h) vect⟩

/-- Every branch of the decoder answers a well-formed instruction whose encoding puts the same fields together. -/
theorem decode_roundTrip (w : Word) : (decode w).wellFormed = true ∧ encode (decode w) = w := by
  cases h : opcodeOf w with
  | br =>
    rw [decode_of_opcodeOf_br h]
    exact ⟨rfl, word_of_opcode_3_9 (field_opcode h)⟩
  | add =>
    by_cases mode : field w 5 1 = 0b1#1
    · rw [decode_of_opcodeOf_add_immediate h mode]
      exact ⟨rfl, word_of_opcode_3_3_1_5 (field_opcode h) mode⟩
    · rw [decode_of_opcodeOf_add_register h (bit_eq_zero mode)]
      exact ⟨rfl, word_of_opcode_3_3_1_2_3 (field_opcode h) (bit_eq_zero mode)⟩
  | ld =>
    rw [decode_of_opcodeOf_ld h]
    exact ⟨rfl, word_of_opcode_3_9 (field_opcode h)⟩
  | st =>
    rw [decode_of_opcodeOf_st h]
    exact ⟨rfl, word_of_opcode_3_9 (field_opcode h)⟩
  | jsr =>
    by_cases mode : field w 11 1 = 0b1#1
    · rw [decode_of_opcodeOf_jsr h mode]
      exact ⟨rfl, word_of_opcode_1_11 (field_opcode h) mode⟩
    · rw [decode_of_opcodeOf_jsrr h (bit_eq_zero mode)]
      exact ⟨rfl, word_of_opcode_1_2_3_6 (field_opcode h) (bit_eq_zero mode)⟩
  | and =>
    by_cases mode : field w 5 1 = 0b1#1
    · rw [decode_of_opcodeOf_and_immediate h mode]
      exact ⟨rfl, word_of_opcode_3_3_1_5 (field_opcode h) mode⟩
    · rw [decode_of_opcodeOf_and_register h (bit_eq_zero mode)]
      exact ⟨rfl, word_of_opcode_3_3_1_2_3 (field_opcode h) (bit_eq_zero mode)⟩
  | ldr =>
    rw [decode_of_opcodeOf_ldr h]
    exact ⟨rfl, word_of_opcode_3_3_6 (field_opcode h) rfl⟩
  | str =>
    rw [decode_of_opcodeOf_str h]
    exact ⟨rfl, word_of_opcode_3_3_6 (field_opcode h) rfl⟩
  | op1000 =>
    rw [decode_of_opcodeOf_op1000 h]
    exact ⟨rfl, word_of_opcode_12 (field_opcode h)⟩
  | not =>
    rw [decode_of_opcodeOf_not h]
    exact ⟨rfl, word_of_opcode_3_3_6 (field_opcode h) rfl⟩
  | ldi =>
    rw [decode_of_opcodeOf_ldi h]
    exact ⟨rfl, word_of_opcode_3_9 (field_opcode h)⟩
  | sti =>
    rw [decode_of_opcodeOf_sti h]
    exact ⟨rfl, word_of_opcode_3_9 (field_opcode h)⟩
  | jmp =>
    by_cases base : field w 6 3 = 0b111#3
    · rw [decode_of_opcodeOf_ret h base]
      exact ⟨rfl, word_of_opcode_3_3_6 (field_opcode h) base⟩
    · rw [decode_of_opcodeOf_jmp h base]
      exact ⟨by simpa [Instr.wellFormed, regField_eq_seven] using base, word_of_opcode_3_3_6 (field_opcode h) rfl⟩
  | op1101 =>
    rw [decode_of_opcodeOf_op1101 h]
    exact ⟨rfl, word_of_opcode_12 (field_opcode h)⟩
  | lea =>
    rw [decode_of_opcodeOf_lea h]
    exact ⟨rfl, word_of_opcode_3_9 (field_opcode h)⟩
  | trap => exact decode_trap_roundTrip h

theorem encode_decode (w : Word) : encode (decode w) = w := (decode_roundTrip w).2

/-- Settles O2: the round trip of the decoder's branches, and uniqueness from decode after encode. -/
theorem everyWordIsOneInstruction : Obligations.EveryWordIsOneInstruction := by
  intro w
  refine ⟨(decode_roundTrip w).1, encode_decode w, ?unique⟩
  case unique =>
    rintro i wf rfl
    exact (decodeReadsBackEncode i wf).symm

theorem field_and (w m : Word) (lo n : Nat) : field (w &&& m) lo n = field w lo n &&& field m lo n :=
  BitVec.extractLsb'_and

/-- A word of opcode 1100 whose base is R7 matches RET's row. -/
theorem masked_of_base_seven {w : Word} (h : opcodeOf w = .jmp) (base : field w 6 3 = 0b111#3) :
    w &&& 0xF1C0 = 0xC1C0 := by
  have opcode : field (w &&& 0xF1C0) 12 4 = 0b1100#4 := by
    rw [field_and, field_opcode (b := 0b1100#4) h]
    decide
  have seven : field (w &&& 0xF1C0) 6 3 = 0b111#3 := by
    rw [field_and, base]
    decide
  have high : field (w &&& 0xF1C0) 9 3 = 0#3 := by
    rw [field_and, show field 0xF1C0 9 3 = 0#3 by decide, BitVec.and_zero]
  have low : field (w &&& 0xF1C0) 0 6 = 0#6 := by
    rw [field_and, show field 0xF1C0 0 6 = 0#6 by decide, BitVec.and_zero]
  rw [← word_of_opcode_3_3_6 opcode seven, high, low]
  decide

/-- Settles O3: the mask fixes the opcode and mode bits, which select the decoder's branch. -/
theorem tableRowsDecode : Obligations.TableRowsDecode := by
  intro w
  refine ⟨fun h => decode_of_opcodeOf_br (opcodeOf_of_row h),
    fun h => decode_of_opcodeOf_add_register (opcodeOf_of_row h) (field_of_row h),
    fun h => decode_of_opcodeOf_add_immediate (opcodeOf_of_row h) (field_of_row h),
    fun h => decode_of_opcodeOf_ld (opcodeOf_of_row h),
    fun h => decode_of_opcodeOf_st (opcodeOf_of_row h),
    fun h => decode_of_opcodeOf_jsr (opcodeOf_of_row h) (field_of_row h),
    fun h => decode_of_opcodeOf_jsrr (opcodeOf_of_row h) (field_of_row h),
    fun h => decode_of_opcodeOf_and_register (opcodeOf_of_row h) (field_of_row h),
    fun h => decode_of_opcodeOf_and_immediate (opcodeOf_of_row h) (field_of_row h),
    fun h => decode_of_opcodeOf_ldr (opcodeOf_of_row h),
    fun h => decode_of_opcodeOf_str (opcodeOf_of_row h),
    fun h => decode_of_opcodeOf_op1000 (opcodeOf_of_row h),
    fun h => decode_of_opcodeOf_not (opcodeOf_of_row h),
    fun h => decode_of_opcodeOf_ldi (opcodeOf_of_row h),
    fun h => decode_of_opcodeOf_sti (opcodeOf_of_row h),
    fun h notRet => decode_of_opcodeOf_jmp (opcodeOf_of_row h) (mt (masked_of_base_seven (opcodeOf_of_row h)) notRet),
    fun h => decode_of_opcodeOf_ret (opcodeOf_of_row h) (field_of_row h),
    fun h => decode_of_opcodeOf_op1101 (opcodeOf_of_row h),
    fun h => decode_of_opcodeOf_lea (opcodeOf_of_row h),
    fun h => decode_of_trapVector (opcodeOf_of_row h) (v := 0x20#8) (field_of_row h),
    fun h => decode_of_trapVector (opcodeOf_of_row h) (v := 0x21#8) (field_of_row h),
    fun h => decode_of_trapVector (opcodeOf_of_row h) (v := 0x22#8) (field_of_row h),
    fun h => decode_of_trapVector (opcodeOf_of_row h) (v := 0x23#8) (field_of_row h),
    fun h => decode_of_trapVector (opcodeOf_of_row h) (v := 0x24#8) (field_of_row h),
    fun h => decode_of_trapVector (opcodeOf_of_row h) (v := 0x25#8) (field_of_row h),
    fun h unknown => (decode_of_opcodeOf_trap (opcodeOf_of_row h)).trans
      (decodeTrap_of_unknown (knownVector_eq_false_iff.2 unknown))⟩

end Sys2Proof
end

section
/-! Ignored bits (30_encoding.md R91, decision D11): two words that agree outside them have the same other fields. -/

namespace Sys2Proof

section
variable {w w' m : Word} (agree : (w ^^^ w') &&& ~~~ m = 0)
include agree

/-- Words that agree outside `m` have the same fields outside `m`. -/
theorem field_of_agree (lo n : Nat) (outside : field (~~~ m) lo n = BitVec.allOnes n := by decide) :
    field w lo n = field w' lo n := by
  have noDifference : field w lo n ^^^ field w' lo n = 0 := by
    calc field w lo n ^^^ field w' lo n
      _ = field (w ^^^ w') lo n := BitVec.extractLsb'_xor.symm
      _ = 0 := field_of_row agree outside BitVec.extractLsb'_zero
  exact BitVec.xor_eq_zero_iff.1 noDifference

theorem regField_of_agree (lo : Nat) (outside : field (~~~ m) lo 3 = BitVec.allOnes 3 := by decide) :
    regField w lo = regField w' lo := by
  rw [regField, field_of_agree agree lo 3 outside, regField]

theorem opcodeOf_of_agree {op : Opcode} (h : opcodeOf w = op)
    (outside : field (~~~ m) 12 4 = BitVec.allOnes 4 := by decide) : opcodeOf w' = op := by
  rw [opcodeOf, ← field_of_agree agree 12 4 outside, ← opcodeOf, h]

end

theorem eq_of_agree_everywhere {w w' : Word} (agree : (w ^^^ w') &&& ~~~ 0#16 = 0) : w = w' := by
  rw [show ~~~ 0#16 = BitVec.allOnes 16 from rfl, BitVec.and_allOnes] at agree
  exact BitVec.xor_eq_zero_iff.1 agree

end Sys2Proof

namespace Sys2Proof.Machine

/-- ADD's and AND's register forms: the fields outside ir[4:3] agree, and no meaning reads ir[4:3]. -/
theorem exec_decode_of_agree_register {op : Opcode} {form : Reg → Reg → BitVec 2 → Reg → Instr}
    {w w' : Word} {s : State}
    (row : ∀ {v : Word}, opcodeOf v = op → field v 5 1 = 0b0#1 →
      decode v = form (regField v 9) (regField v 6) (field v 3 2) (regField v 0))
    (unread : ∀ dr sr1 ign ign' sr2, exec (form dr sr1 ign sr2) s = exec (form dr sr1 ign' sr2) s)
    (agree : (w ^^^ w') &&& ~~~ 0x0018#16 = 0) (h : opcodeOf w = op) (mode : field w 5 1 = 0b0#1) :
    exec (decode w) s = exec (decode w') s := by
  have mode' : field w' 5 1 = 0b0#1 := (field_of_agree agree 5 1).symm.trans mode
  rw [row h mode, row (opcodeOf_of_agree agree h) mode', regField_of_agree agree 9, regField_of_agree agree 6,
    regField_of_agree agree 0]
  exact unread _ _ _ _ _

section
variable {w w' : Word} (agree : (w ^^^ w') &&& ~~~ ignoredBits w = 0) (s : State)
include agree

/-- A row with no ignored bits: the words are equal. -/
theorem exec_decode_of_agree_of_none (none : ignoredBits w = 0x0000#16) : exec (decode w) s = exec (decode w') s := by
  rw [none] at agree
  rw [eq_of_agree_everywhere agree]

theorem exec_decode_of_agree_add (h : opcodeOf w = .add) : exec (decode w) s = exec (decode w') s := by
  by_cases mode : field w 5 1 = 0b1#1
  · exact exec_decode_of_agree_of_none agree s (by simp [ignoredBits, decode_of_opcodeOf_add_immediate h mode])
  · have row := decode_of_opcodeOf_add_register h (bit_eq_zero mode)
    simp only [ignoredBits, row] at agree
    exact exec_decode_of_agree_register decode_of_opcodeOf_add_register (fun _ _ _ _ _ => rfl) agree h
      (bit_eq_zero mode)

theorem exec_decode_of_agree_and (h : opcodeOf w = .and) : exec (decode w) s = exec (decode w') s := by
  by_cases mode : field w 5 1 = 0b1#1
  · exact exec_decode_of_agree_of_none agree s (by simp [ignoredBits, decode_of_opcodeOf_and_immediate h mode])
  · have row := decode_of_opcodeOf_and_register h (bit_eq_zero mode)
    simp only [ignoredBits, row] at agree
    exact exec_decode_of_agree_register decode_of_opcodeOf_and_register (fun _ _ _ _ _ => rfl) agree h
      (bit_eq_zero mode)

theorem exec_decode_of_agree_not (h : opcodeOf w = .not) : exec (decode w) s = exec (decode w') s := by
  have row := decode_of_opcodeOf_not h
  simp only [ignoredBits, row] at agree
  rw [row, decode_of_opcodeOf_not (opcodeOf_of_agree agree h), regField_of_agree agree 9, regField_of_agree agree 6]
  rfl

theorem exec_decode_of_agree_jsr (h : opcodeOf w = .jsr) : exec (decode w) s = exec (decode w') s := by
  by_cases mode : field w 11 1 = 0b1#1
  · exact exec_decode_of_agree_of_none agree s (by simp [ignoredBits, decode_of_opcodeOf_jsr h mode])
  · have row := decode_of_opcodeOf_jsrr h (bit_eq_zero mode)
    simp only [ignoredBits, row] at agree
    have mode' : field w' 11 1 = 0b0#1 := (field_of_agree agree 11 1).symm.trans (bit_eq_zero mode)
    rw [row, decode_of_opcodeOf_jsrr (opcodeOf_of_agree agree h) mode', regField_of_agree agree 6]
    rfl

theorem exec_decode_of_agree_jmp (h : opcodeOf w = .jmp) : exec (decode w) s = exec (decode w') s := by
  by_cases base : field w 6 3 = 0b111#3
  · have row := decode_of_opcodeOf_ret h base
    simp only [ignoredBits, row] at agree
    rw [row, decode_of_opcodeOf_ret (opcodeOf_of_agree agree h) ((field_of_agree agree 6 3).symm.trans base)]
    rfl
  · have row := decode_of_opcodeOf_jmp h base
    simp only [ignoredBits, row] at agree
    have base' : field w' 6 3 ≠ 0b111#3 := field_of_agree agree 6 3 ▸ base
    rw [row, decode_of_opcodeOf_jmp (opcodeOf_of_agree agree h) base', regField_of_agree agree 6]
    rfl

/-- A routine's vector is outside the ignored bits, and no meaning of a routine reads them. -/
theorem exec_decode_of_agree_trap (h : opcodeOf w = .trap) : exec (decode w) s = exec (decode w') s := by
  have decoded := decode_of_opcodeOf_trap h
  cases known : knownVector (field w 0 8) with
  | false =>
    exact exec_decode_of_agree_of_none agree s (by simp [ignoredBits, decoded, decodeTrap_of_unknown known])
  | true =>
    obtain ⟨vect, row⟩ | ⟨vect, row⟩ | ⟨vect, row⟩ | ⟨vect, row⟩ | ⟨vect, row⟩ | ⟨vect, row⟩ :=
      decodeTrap_of_known (field w 8 4) known
    all_goals
      simp only [ignoredBits, decoded, row] at agree
      have vect' := (field_of_agree agree 0 8).symm.trans vect
      rw [decoded, row, decode_of_trapVector (opcodeOf_of_agree agree h) vect']
      rfl

end

/-- Settles O5: the opcodes with ignored bits one by one; the words of any other opcode are equal. -/
theorem ignoredBitsChangeNothing : Obligations.IgnoredBitsChangeNothing := by
  intro w w' s agree
  cases h : opcodeOf w with
  | add => exact exec_decode_of_agree_add agree s h
  | and => exact exec_decode_of_agree_and agree s h
  | not => exact exec_decode_of_agree_not agree s h
  | jsr => exact exec_decode_of_agree_jsr agree s h
  | jmp => exact exec_decode_of_agree_jmp agree s h
  | trap => exact exec_decode_of_agree_trap agree s h
  | br | ld | st | ldr | str | op1000 | ldi | sti | op1101 | lea =>
    exact exec_decode_of_agree_of_none agree s (by simp [ignoredBits, decode, h])

end Sys2Proof.Machine
end

section
/-! Words of the spec's examples. -/

namespace Sys2Proof

/-- Settles O4, by evaluating the decoder on the eleven words. -/
theorem specWordsDecode : Obligations.SpecWordsDecode := by
  unfold Obligations.SpecWordsDecode
  decide

end Sys2Proof
end

section
/-! What an instruction can do to the status, the parameters and memory's form, said once: the instructions that go on,
HALT, and the fatal ones. -/

namespace Sys2Proof.Machine

/-! ### Instructions that go on -/

/-- `t` follows `s` with RUNNING, the fault record and the parameters as they were and memory still canonical. -/
structure GoesOn (s t : State) : Prop where
  running : t.running = s.running
  fault : t.fault = s.fault
  config : t.config = s.config
  memWf : s.mem.wf = true → t.mem.wf = true

theorem GoesOn.trans {s t u : State} (h : GoesOn s t) (h' : GoesOn t u) : GoesOn s u where
  running := h'.running.trans h.running
  fault := h'.fault.trans h.fault
  config := h'.config.trans h.config
  memWf wf := h'.memWf (h.memWf wf)

theorem GoesOn.setPc (s : State) (v : Word) : GoesOn s (s.setPc v) := by
  constructor <;> simp

theorem GoesOn.setReg (s : State) (r : Reg) (v : Word) : GoesOn s (s.setReg r v) := by
  constructor <;> simp

theorem GoesOn.writeResult (s : State) (dr : Reg) (v : Word) : GoesOn s (s.writeResult dr v) := by
  constructor <;> simp [State.writeResult_eq]

theorem GoesOn.memRead (s : State) (a : Word) : GoesOn s (s.memRead a).2 := by
  constructor <;> simp

theorem GoesOn.memWrite (s : State) (a v : Word) : GoesOn s (s.memWrite a v) := by
  constructor <;> simp +contextual [State.wf_memWrite]

theorem GoesOn.kbdTake (s : State) : GoesOn s s.kbdTake.2 := by
  constructor <;> simp

theorem GoesOn.setOutput (s : State) (v : List Byte) : GoesOn s (s.setOutput v) := by
  constructor <;> simp

theorem GoesOn.loadFrom (s : State) (dr : Reg) (ea : Word) : GoesOn s (s.loadFrom dr ea) :=
  (GoesOn.memRead s ea).trans (.writeResult _ _ _)

theorem GoesOn.fetch (s : State) : GoesOn s s.fetch.2 :=
  (GoesOn.memRead s s.pc).trans (.setPc _ _)

theorem ScanChanges.goesOn {s t : State} (h : ScanChanges s t) : GoesOn s t where
  running := h.running
  fault := h.fault
  config := h.config
  memWf wf := h.mem ▸ wf

theorem execTrapGetc_goesOn {s t : State} (h : execTrapGetc s = .next t) : GoesOn s t := by
  obtain ⟨c, -, rfl⟩ | ⟨-, rfl⟩ := execTrapGetc_cases h
  · exact (GoesOn.kbdTake s).trans (.setReg _ _ _)
  · exact (GoesOn.kbdTake s).trans (.setPc _ _)

theorem execTrapIn_goesOn {s t : State} (h : execTrapIn s = .next t) : GoesOn s t := by
  obtain ⟨c, -, rfl⟩ | ⟨-, rfl⟩ := execTrapIn_cases h
  · exact (((GoesOn.kbdTake s).trans (.setOutput _ _)).trans (.setOutput _ _)).trans (.setReg _ _ _)
  · exact (GoesOn.kbdTake s).trans (.setPc _ _)

/-- Every instruction but HALT and the fatal ones goes on (10_state.md R31, R33). -/
theorem exec_goesOn {i : Instr} {s t : State} (notHalt : isHalt i = false) (notFatal : isFatal i = false)
    (h : exec i s = .next t) : GoesOn s t := by
  cases i with
  | trapHalt => cases notHalt
  | illegal8 | illegalD | trap => cases notFatal
  | addReg | addImm | andReg | andImm | not | lea => cases h; exact .writeResult _ _ _
  | ld | ldr => cases h; exact .loadFrom _ _ _
  | ldi => cases h; exact (GoesOn.memRead _ _).trans (.loadFrom _ _ _)
  | st | str => cases h; exact .memWrite _ _ _
  | sti => cases h; exact (GoesOn.memRead _ _).trans (.memWrite _ _ _)
  | br =>
    cases h
    split
    · exact .setPc _ _
    · exact ⟨rfl, rfl, rfl, id⟩
  | jmp | ret => cases h; exact .setPc _ _
  | jsr | jsrr => cases h; exact (GoesOn.setReg _ _ _).trans (.setPc _ _)
  | trapGetc => exact execTrapGetc_goesOn h
  | trapIn => exact execTrapIn_goesOn h
  | trapOut => cases h; exact .setOutput _ _
  | trapPuts => exact (execTrapPuts_changes h).goesOn
  | trapPutsp => exact (execTrapPutsp_changes h).goesOn

/-! ### HALT and the fatal errors -/

theorem exec_halt {i : Instr} (h : isHalt i = true) (s : State) : exec i s = .next s.halt := by
  cases i with
  | trapHalt => rfl
  | _ => cases h

/-- The kind and the detail of the record that a fatal instruction writes (60_exceptions.md R222, R223). -/
def fatalKind : Instr → FatalKind
  | .trap _ _ => .unknownTrap
  | _ => .illegalOpcode

def fatalDetail : Instr → Word
  | .illegal8 _ => zext 0b1000#4
  | .illegalD _ => zext 0b1101#4
  | .trap _ vect => zext vect
  | _ => 0#16

/-- A fatal instruction enters the fatal error with its own word (R224), from every state alike. -/
theorem exec_fatal {i : Instr} (h : isFatal i = true) (s : State) :
    exec i s = .next (s.raiseFatal (fatalKind i) (encode i) (fatalDetail i)) := by
  cases i with
  | illegal8 | illegalD | trap => rfl
  | _ => cases h

/-- The record of a well-formed fatal instruction agrees with its word (10_state.md R33). -/
theorem fatalRecord_consistent {i : Instr} (h : isFatal i = true) (wf : i.wellFormed = true) (p : Word) :
    FaultRecord.consistent ⟨fatalKind i, p, encode i, fatalDetail i⟩ := by
  cases i with
  | illegal8 ign =>
    have opcode : field (encode (.illegal8 ign)) 12 4 = 0b1000#4 := by
      rw [encode, field_toWord, BitVec.extractLsb'_append_eq_left]
    refine ⟨.inl ?_, ?_⟩
    · rw [opcodeOf, opcode]; rfl
    · rw [opcode]; rfl
  | illegalD ign =>
    have opcode : field (encode (.illegalD ign)) 12 4 = 0b1101#4 := by
      rw [encode, field_toWord, BitVec.extractLsb'_append_eq_left]
    refine ⟨.inr ?_, ?_⟩
    · rw [opcodeOf, opcode]; rfl
    · rw [opcode]; rfl
  | trap ign vect =>
    have opcode : field (encode (.trap ign vect)) 12 4 = 0b1111#4 := by
      simp [-Nat.reduceAdd, encode, BitVec.extractLsb'_append_eq_of_le]
    have vector : field (encode (.trap ign vect)) 0 8 = vect := by
      rw [encode, field_toWord, BitVec.extractLsb'_append_eq_right]
    refine ⟨?_, ?_, ?_⟩
    · rw [opcodeOf, opcode]; rfl
    · rw [vector]; simpa [Instr.wellFormed] using wf
    · rw [vector]; rfl
  | _ => cases h

theorem isFatal_of_isHalt {i : Instr} (h : isHalt i = true) : isFatal i = false := by
  cases i with
  | trapHalt => rfl
  | _ => cases h

/-- Everything an instruction that answers next can do to the status: go on, halt, or enter a fatal error. -/
theorem exec_status_cases {i : Instr} {s t : State} (h : exec i s = .next t) :
    (isHalt i = false ∧ isFatal i = false ∧ GoesOn s t) ∨
    (isHalt i = true ∧ isFatal i = false ∧ t = s.halt) ∨
    (isHalt i = false ∧ isFatal i = true ∧ t = s.raiseFatal (fatalKind i) (encode i) (fatalDetail i)) := by
  cases halt : isHalt i with
  | true =>
    rw [exec_halt halt] at h
    cases h
    exact .inr (.inl ⟨rfl, isFatal_of_isHalt halt, rfl⟩)
  | false =>
    cases fatal : isFatal i with
    | true =>
      rw [exec_fatal fatal] at h
      cases h
      exact .inr (.inr ⟨rfl, rfl, rfl⟩)
    | false => exact .inl ⟨rfl, rfl, exec_goesOn halt fatal h⟩

/-- Settles O47, by the three things an instruction can do to the status. -/
theorem statusWrittenOnlyByHaltAndErrors : Obligations.StatusWrittenOnlyByHaltAndErrors := by
  intro i s t h
  obtain ⟨halt, fatal, goesOn⟩ | ⟨halt, fatal, rfl⟩ | ⟨halt, fatal, rfl⟩ := exec_status_cases h
  · simp [halt, fatal, goesOn.running, goesOn.fault]
  · simp [halt, fatal, State.halt_eq]
  · simp [halt, fatal, State.raiseFatal_eq]

end Sys2Proof.Machine
end

section
/-! The invariant under a step (10_state.md R27, R33; 60_exceptions.md R224). -/

namespace Sys2Proof.Machine

theorem oneHot_condOf (v : Word) : oneHot (condOf v) := by
  unfold condOf
  split
  · exact .inl rfl
  · split
    · exact .inr (.inl rfl)
    · exact .inr (.inr rfl)

/-- R29: the flags stay one-hot, since they stay or are a `condOf`. -/
theorem exec_oneHot {i : Instr} {s t : State} (h : exec i s = .next t) (hot : oneHot s.cond) : oneHot t.cond := by
  have written := condWrittenOnlyByFlagSetters i s t h
  split at written
  · rw [written]; exact oneHot_condOf _
  · rw [written]; exact hot

/-- A running core that has the invariant has no fault record. -/
theorem Inv.fault_eq_none {s : State} (inv : Inv s) (running : s.running = true) : s.fault = none := by
  cases hf : s.fault with
  | none => rfl
  | some r =>
    have halted := (inv.faultHalted r hf).1
    simp [running] at halted

/-- A well-formed instruction that runs with no fault record there keeps the invariant. -/
theorem exec_keeps_inv {i : Instr} {s t : State} (wf : i.wellFormed = true) (noFault : s.fault = none) (inv : Inv s)
    (h : exec i s = .next t) : Inv t := by
  have hot := exec_oneHot h inv.condOneHot
  obtain ⟨-, -, goesOn⟩ | ⟨-, -, rfl⟩ | ⟨-, fatal, rfl⟩ := exec_status_cases h
  · exact ⟨goesOn.memWf inv.memCanonical, hot, by rw [Config.wf, goesOn.config]; exact inv.devicesDiffer,
      by simp [goesOn.fault, noFault]⟩
  · exact ⟨inv.memCanonical, hot, inv.devicesDiffer, by simp [State.halt_eq, noFault]⟩
  · refine ⟨inv.memCanonical, hot, inv.devicesDiffer, ?record⟩
    case record =>
      rintro r ⟨⟩
      exact ⟨rfl, (BitVec.sub_add_cancel s.pc 1).symm, fatalRecord_consistent fatal wf _⟩

theorem Inv.fetch {s : State} (inv : Inv s) (noFault : s.fault = none) : Inv s.fetch.2 where
  memCanonical := (GoesOn.fetch s).memWf inv.memCanonical
  condOneHot := by simpa using inv.condOneHot
  devicesDiffer := by simpa using inv.devicesDiffer
  faultHalted := by simp [noFault]

theorem step_halted {s : State} (h : s.running = false) : step s = .next s := by
  simp [step, h]

theorem step_running {s : State} (h : s.running = true) : step s = exec (decode s.fetch.1) s.fetch.2 := by
  simp [step, h]

/-- Settles O11: a halted core does not change; a running one has no fault record, so it fetches and executes a
well-formed instruction without one. -/
theorem stepKeepsInvariant : Obligations.StepKeepsInvariant := by
  intro s t inv h
  cases running : s.running with
  | false =>
    rw [step_halted running] at h
    cases h
    exact inv
  | true =>
    have noFault := inv.fault_eq_none running
    rw [step_running running] at h
    exact exec_keeps_inv (decode_roundTrip _).1 (by simpa using noFault) (inv.fetch noFault) h

end Sys2Proof.Machine
end

section
/-! The invariant at construction, under the host's commands, and so in every reachable state. -/

namespace Sys2Proof.Machine

theorem Inv.new {c : Config} (h : c.wf) : Inv (State.new c) where
  memCanonical := rfl
  condOneHot := .inr (.inl rfl)
  devicesDiffer := h
  faultHalted := by rintro r ⟨⟩

/-- Settles O10: reset is construction with R8's defaults, which differ. -/
theorem newSatisfiesInvariant : Obligations.NewSatisfiesInvariant :=
  ⟨fun _ => Inv.new, Inv.new (by decide)⟩

theorem Memory.wf_writeWords {m : Memory} (a : Word) (ws : List Word) (h : m.wf = true) :
    (m.writeWords a ws).wf = true := by
  induction ws generalizing m a with
  | nil => exact h
  | cons w ws ih => exact ih (a + 1) (Memory.wf_write a w h)

/-- Everything `load` can do (70_reset_and_hazards.md R261, R262). -/
theorem State.load_cases (s : State) (bytes : List Byte) :
    (∃ origin ws, imageWords bytes = some (origin :: ws) ∧ s.load bytes =
      (.ok origin, (((s.setMem (s.mem.writeWords origin ws)).setPc origin).setRunning true).setFault none)) ∨
    ((imageWords bytes = some [] ∨ imageWords bytes = none) ∧ s.load bytes = (.err .imageFormat, s)) := by
  unfold State.load
  split
  case h_1 origin ws e => exact .inl ⟨origin, ws, e, rfl⟩
  case h_2 e => exact .inr ⟨.inl e, rfl⟩
  case h_3 e => exact .inr ⟨.inr e, rfl⟩

theorem Inv.load {s : State} (inv : Inv s) (bytes : List Byte) : Inv (s.load bytes).2 := by
  obtain ⟨origin, ws, -, e⟩ | ⟨-, e⟩ := s.load_cases bytes
  · rw [e]
    exact ⟨Memory.wf_writeWords origin ws inv.memCanonical, inv.condOneHot, inv.devicesDiffer, by rintro r ⟨⟩⟩
  · rw [e]
    exact inv

theorem Inv.setInput {s : State} (inv : Inv s) (v : List Byte) : Inv (s.setInput v) :=
  ⟨inv.memCanonical, inv.condOneHot, inv.devicesDiffer, inv.faultHalted⟩

theorem Inv.setOutput {s : State} (inv : Inv s) (v : List Byte) : Inv (s.setOutput v) :=
  ⟨inv.memCanonical, inv.condOneHot, inv.devicesDiffer, inv.faultHalted⟩

theorem Inv.pushInput {s : State} (inv : Inv s) (b : Byte) : Inv (s.pushInput b) := inv.setInput _

theorem Inv.popOutput {s : State} (inv : Inv s) : Inv s.popOutput.2 := by
  rw [State.popOutput_state]
  exact inv.setOutput _

/-- Settles O12: a load writes words and clears the record; a push and a pop touch a channel alone. -/
theorem hostCommandsKeepInvariant : Obligations.HostCommandsKeepInvariant := fun _ bytes b inv =>
  ⟨inv.load bytes, inv.pushInput b, inv.popOutput⟩

/-- Settles O13, by induction on the commands that reach the state. -/
theorem reachableStatesSatisfyInvariant : Obligations.ReachableStatesSatisfyInvariant := by
  intro s reached
  induction reached with
  | new c h => exact Inv.new h
  | command c s t _ h inv =>
    cases c with
    | step => exact stepKeepsInvariant s t inv h
    | load bytes => cases h; exact inv.load bytes
    | pushInput b => cases h; exact inv.pushInput b
    | popOutput => cases h; exact inv.popOutput

end Sys2Proof.Machine
end

section
/-! PUTS and PUTSP end (44_trap.md R180): every scan meets KBSR_ADDR within 65536 reads, and KBDR_ADDR too. A status
read ends PUTSP at once, and PUTS once no character is pending; each data read before that takes a pending
one. -/

namespace Sys2Proof.Machine

/-! ### What the device reads answer and leave pending -/

theorem State.memRead_kbsr_fst (s : State) :
    (s.memRead s.config.kbsrAddr).1 = if 0 < s.pending then 0x8000#16 else 0x0000#16 := by
  simp [State.memRead, State.readKbsr, State.kbdPoll_kbReady]

theorem State.pending_setKbReady_false {s : State} (h : s.kbReady = true) :
    (s.setKbReady false).pending = s.pending - 1 := by
  simp [State.pending, h]

theorem State.pending_memRead_kbdr (s : State) (h : s.config.wf) :
    (s.memRead s.config.kbdrAddr).2.pending = s.pending - 1 := by
  have notKbsr : s.config.kbdrAddr ≠ s.config.kbsrAddr := h.symm
  simp only [State.memRead, if_neg notKbsr, if_pos, State.readKbdr]
  split
  case isTrue ready => rw [State.pending_setKbReady_false ready, State.pending_kbdPoll]
  case isFalse ready =>
    have none : s.pending = 0 := by simpa [State.kbdPoll_kbReady] using ready
    have kept : (s.kbdPoll.setKbdrDraws (s.kbdPoll.kbdrDraws + 1)).pending = s.kbdPoll.pending := rfl
    rw [kept, State.pending_kbdPoll, none]

theorem State.pending_memRead_of_ne_kbdr {s : State} {a : Word} (h : a ≠ s.config.kbdrAddr) :
    (s.memRead a).2.pending = s.pending := by
  simp only [State.memRead, if_neg h]
  split
  · exact s.pending_kbdPoll
  · rfl

@[simp] theorem State.pending_out (s : State) (b : Byte) : (s.out b).pending = s.pending := rfl
@[simp] theorem State.out_config (s : State) (b : Byte) : (s.out b).config = s.config := rfl

/-! ### The meanings by their scans -/

/-- What PUTS and PUTSP answer, by what the scan does: its end, or the fault of an unended scan. -/
def scanOutcome : Option State → Host.Outcome State Fault Refusal
  | some t => .next t
  | none => .fault .scanUnended

theorem execTrapPuts_eq (s : State) : execTrapPuts s = scanOutcome (putsScan (putsReads s) (s.reg 0) s) := by
  rw [execTrapPuts]
  split
  case h_1 t e => rw [e]; rfl
  case h_2 e => rw [e]; rfl

theorem execTrapPutsp_eq (s : State) : execTrapPutsp s = scanOutcome (putspScan putspReads (s.reg 0) s) := by
  rw [execTrapPutsp]
  split
  case h_1 t e => rw [e]; rfl
  case h_2 e => rw [e]; rfl

/-! ### How far a scan is from an address -/

/-- The reads a scan at `a` makes before it reads `d`. -/
def scanDistance (a d : Word) : Nat := (d - a).toNat

theorem scanDistance_lt (a d : Word) : scanDistance a d < 65536 := (d - a).isLt

theorem scanDistance_succ {a d : Word} (h : a ≠ d) : scanDistance (a + 1) d + 1 = scanDistance a d := by
  unfold scanDistance
  bv_omega

/-! ### PUTSP -/

/-- A PUTSP scan ends by the read of KBSR_ADDR at the latest: the low byte there is 0. -/
theorem putspScan_ends {n : Nat} {a : Word} {s : State} (enough : scanDistance a s.config.kbsrAddr < n) :
    ∃ t, putspScan n a s = some t := by
  induction n generalizing a s with
  | zero => omega
  | succ n ih =>
    simp only [putspScan]
    split
    case isTrue => exact ⟨_, rfl⟩
    case isFalse low =>
      split
      case isTrue => exact ⟨_, rfl⟩
      case isFalse high =>
        have notKbsr : a ≠ s.config.kbsrAddr := by
          rintro rfl
          rw [State.memRead_kbsr_fst] at low
          split at low <;> exact low rfl
        have closer := scanDistance_succ notKbsr
        exact ih (by simp only [State.out_config, State.memRead_config]; omega)

theorem putspScan_runs {n : Nat} {a : Word} {s t : State} (h : putspScan n a s = some t) : PutspRuns a s t := by
  induction n generalizing a s with
  | zero => cases h
  | succ n ih =>
    simp only [putspScan] at h
    split at h
    case isTrue low => cases h; exact .stopLow a s low
    case isFalse low =>
      split at h
      case isTrue high => cases h; exact .stopHigh a s low high
      case isFalse high => exact .more a s t low high (ih h)

theorem exec_trapPutsp_of_scan {ign : BitVec 4} {s t : State} (h : putspScan putspReads (s.reg 0) s = some t) :
    exec (.trapPutsp ign) s = .next t :=
  (execTrapPutsp_eq s).trans (congrArg scanOutcome h)

/-- Settles O40: the scan meets KBSR_ADDR within its 65536 reads, and makes the loop's own choices up to there. -/
theorem putspRunsItsLoopToTheEnd : Obligations.PutspRunsItsLoopToTheEnd := by
  intro ign s
  obtain ⟨t, ends⟩ := putspScan_ends (n := putspReads) (scanDistance_lt (s.reg 0) s.config.kbsrAddr)
  exact ⟨t, exec_trapPutsp_of_scan ends, putspScan_runs ends⟩

/-! ### PUTS -/

/-- The reads after which a PUTS scan at `a` has ended: with nothing pending up to KBSR_ADDR, else up to KBDR_ADDR and
then once round memory for each pending character. -/
def putsBound (s : State) (a : Word) : Nat :=
  if s.pending = 0 then scanDistance a s.config.kbsrAddr else scanDistance a s.config.kbdrAddr + s.pending * 65536

theorem putsBound_lt (s : State) (a : Word) : putsBound s a < (s.pending + 1) * 65536 := by
  have sr := scanDistance_lt a s.config.kbsrAddr
  have dr := scanDistance_lt a s.config.kbdrAddr
  unfold putsBound
  split <;> omega

theorem putsBound_lt_putsReads (s : State) (a : Word) : putsBound s a < putsReads s := by
  have latch : s.pending ≤ s.input.length + 1 := Nat.add_le_add_left s.kbReady.toNat_le _
  calc putsBound s a
    _ < (s.pending + 1) * 65536 := putsBound_lt s a
    _ ≤ (s.input.length + 2) * Config.memWords := Nat.mul_le_mul_right 65536 (Nat.succ_le_succ latch)

/-- A read that does not end the scan brings the end nearer: with nothing pending it is not of KBSR_ADDR, and else it
takes a pending character or is one address nearer to KBDR_ADDR. -/
theorem putsBound_memRead_lt {s : State} {a : Word} (wf : s.config.wf) (more : (s.memRead a).1 ≠ 0x0000#16) :
    putsBound (s.memRead a).2 (a + 1) < putsBound s a := by
  by_cases none : s.pending = 0
  · have notKbsr : a ≠ s.config.kbsrAddr := by
      rintro rfl
      exact more (by rw [State.memRead_kbsr_fst, none]; rfl)
    have stillNone : (s.memRead a).2.pending = 0 := by
      by_cases kbdr : a = s.config.kbdrAddr
      · rw [kbdr, State.pending_memRead_kbdr s wf, none]
      · rw [State.pending_memRead_of_ne_kbdr kbdr, none]
    rw [putsBound, if_pos stillNone, putsBound, if_pos none, State.memRead_config]
    exact Nat.lt_of_succ_le (scanDistance_succ notKbsr).le
  · by_cases kbdr : a = s.config.kbdrAddr
    · have taken : (s.memRead a).2.pending + 1 = s.pending := by
        rw [kbdr, State.pending_memRead_kbdr s wf, Nat.sub_add_cancel (Nat.pos_of_ne_zero none)]
      have lap := putsBound_lt (s.memRead a).2 (a + 1)
      rw [taken] at lap
      rw [putsBound.eq_def s, if_neg none]
      exact lap.trans_le (Nat.le_add_left _ _)
    · have kept := State.pending_memRead_of_ne_kbdr kbdr
      rw [putsBound, kept, if_neg none, putsBound, if_neg none, State.memRead_config]
      exact Nat.add_lt_add_right (Nat.lt_of_succ_le (scanDistance_succ kbdr).le) _

theorem putsBound_out (s : State) (a : Word) (b : Byte) : putsBound (s.out b) a = putsBound s a := rfl

theorem putsScan_ends {n : Nat} {a : Word} {s : State} (wf : s.config.wf) (enough : putsBound s a < n) :
    ∃ t, putsScan n a s = some t := by
  induction n generalizing a s with
  | zero => omega
  | succ n ih =>
    simp only [putsScan]
    split
    case isTrue => exact ⟨_, rfl⟩
    case isFalse more =>
      have nearer := putsBound_memRead_lt wf more
      exact ih (by simpa using wf) (by rw [putsBound_out]; omega)

theorem putsScan_runs {n : Nat} {a : Word} {s t : State} (h : putsScan n a s = some t) : PutsRuns a s t := by
  induction n generalizing a s with
  | zero => cases h
  | succ n ih =>
    simp only [putsScan] at h
    split at h
    case isTrue zero => cases h; exact .stop a s zero
    case isFalse more => exact .more a s t more (ih h)

theorem exec_trapPuts_of_scan {ign : BitVec 4} {s t : State} (h : putsScan (putsReads s) (s.reg 0) s = some t) :
    exec (.trapPuts ign) s = .next t :=
  (execTrapPuts_eq s).trans (congrArg scanOutcome h)

/-- Settles O39: the scan's reads suffice, and it makes the loop's own choices up to its end. -/
theorem putsRunsItsLoopToTheEnd : Obligations.PutsRunsItsLoopToTheEnd := by
  intro ign s wf
  obtain ⟨t, ends⟩ := putsScan_ends wf (putsBound_lt_putsReads s (s.reg 0))
  exact ⟨t, exec_trapPuts_of_scan ends, putsScan_runs ends⟩

end Sys2Proof.Machine
end

section
/-! No step is refused and none faults (30_encoding.md R94; 44_trap.md R180). -/

namespace Sys2Proof.Machine

theorem execTrapGetc_answers (s : State) : ∃ t, execTrapGetc s = .next t := by
  unfold execTrapGetc
  split <;> exact ⟨_, rfl⟩

theorem execTrapIn_answers (s : State) : ∃ t, execTrapIn s = .next t := by
  unfold execTrapIn
  split <;> exact ⟨_, rfl⟩

/-- Only the scans could fail to answer, and they end. -/
theorem exec_answers (i : Instr) {s : State} (wf : s.config.wf) : ∃ t, exec i s = .next t := by
  cases i with
  | trapGetc => exact execTrapGetc_answers s
  | trapIn => exact execTrapIn_answers s
  | trapPuts ign =>
    obtain ⟨t, answers, -⟩ := putsRunsItsLoopToTheEnd ign s wf
    exact ⟨t, answers⟩
  | trapPutsp ign =>
    obtain ⟨t, answers, -⟩ := putspRunsItsLoopToTheEnd ign s
    exact ⟨t, answers⟩
  | _ => exact ⟨_, rfl⟩

/-- Settles O14: a halted core stays, and a running one executes an instruction that answers. -/
theorem stepAlwaysAnswersNext : Obligations.StepAlwaysAnswersNext := by
  intro s wf
  cases running : s.running with
  | false => exact ⟨s, step_halted running⟩
  | true =>
    rw [step_running running]
    exact exec_answers _ (by simpa using wf)

end Sys2Proof.Machine
end

section
/-! PUTS and PUTSP on strings at plain addresses (44_trap.md R173, R175). -/

namespace Sys2Proof.Machine

theorem addr_zero (a : Word) : a + BitVec.ofNat 16 0 = a := BitVec.add_zero a

theorem addr_succ (a : Word) (k : Nat) : a + BitVec.ofNat 16 (k + 1) = a + 1 + BitVec.ofNat 16 k := by
  rw [Nat.add_comm k 1, BitVec.ofNat_add, BitVec.add_assoc]
  rfl

@[simp] theorem State.out_mem (s : State) (b : Byte) : (s.out b).mem = s.mem := rfl
@[simp] theorem State.out_output (s : State) (b : Byte) : (s.out b).output = s.output ++ [b] := rfl
@[simp] theorem State.isDevice_out (s : State) (b : Byte) (a : Word) : (s.out b).isDevice a = s.isDevice a := rfl
@[simp] theorem State.setOutput_out (s : State) (b : Byte) (v : List Byte) :
    (s.out b).setOutput v = s.setOutput v := rfl

/-! ### PUTS -/

section
variable {n : Nat} {a : Word} {s : State}

theorem putsScan_plain_zero (plain : s.isDevice a = false) (zero : s.mem.read a = 0x0000#16) :
    putsScan (n + 1) a s = some s := by
  simp [putsScan, s.memRead_plain a plain, zero]

theorem putsScan_plain_char (plain : s.isDevice a = false) (char : s.mem.read a ≠ 0x0000#16) :
    putsScan (n + 1) a s = putsScan n (a + 1) (s.out (lowByte (s.mem.read a))) := by
  simp [putsScan, s.memRead_plain a plain, char]

end

/-- The characters of `n` words from `a` up. -/
def stringBytes (m : Memory) (a : Word) (n : Nat) : List Byte :=
  (List.range n).map (fun k => lowByte (m.read (a + BitVec.ofNat 16 k)))

theorem stringBytes_succ (m : Memory) (a : Word) (n : Nat) :
    stringBytes m a (n + 1) = lowByte (m.read a) :: stringBytes m (a + 1) n := by
  simp only [stringBytes, List.range_succ_eq_map, List.map_cons, List.map_map, Function.comp_def, addr_zero,
    Nat.succ_eq_add_one, addr_succ]

/-- `n` plain words from `a` up that do not end PUTS's scan. -/
def PlainChars (s : State) (a : Word) (n : Nat) : Prop :=
  ∀ k, k < n → s.isDevice (a + BitVec.ofNat 16 k) = false ∧ s.mem.read (a + BitVec.ofNat 16 k) ≠ 0x0000#16

theorem PlainChars.head {s : State} {a : Word} {n : Nat} (h : PlainChars s a (n + 1)) :
    s.isDevice a = false ∧ s.mem.read a ≠ 0x0000#16 := by
  simpa only [addr_zero] using h 0 n.succ_pos

theorem PlainChars.tail {s : State} {a : Word} {n : Nat} (h : PlainChars s a (n + 1)) (b : Byte) :
    PlainChars (s.out b) (a + 1) n := by
  intro k hk
  rw [← addr_succ]
  exact h (k + 1) (Nat.succ_lt_succ hk)

theorem putsScan_string {n reads : Nat} {a : Word} {s : State} (enough : n < reads) (chars : PlainChars s a n)
    (plain : s.isDevice (a + BitVec.ofNat 16 n) = false) (zero : s.mem.read (a + BitVec.ofNat 16 n) = 0x0000#16) :
    putsScan reads a s = some (s.setOutput (s.output ++ stringBytes s.mem a n)) := by
  induction n generalizing reads a s with
  | zero =>
    obtain _ | reads := reads
    · omega
    rw [addr_zero] at plain zero
    rw [putsScan_plain_zero plain zero]
    simp [stringBytes, State.setOutput]
  | succ n ih =>
    obtain _ | reads := reads
    · omega
    obtain ⟨plainHead, char⟩ := chars.head
    rw [addr_succ] at plain zero
    rw [putsScan_plain_char plainHead char, ih (by omega) (chars.tail _) plain zero, stringBytes_succ]
    simp

/-- Settles O41: the string and its end are fewer words than the scan's reads. -/
theorem putsWritesPlainString : Obligations.PutsWritesPlainString := by
  intro ign s n small chars plain zero
  have enough : n < putsReads s := by
    calc n
      _ < 65536 := small
      _ ≤ (s.input.length + 2) * 65536 := Nat.le_mul_of_pos_left _ (Nat.succ_pos _)
  exact exec_trapPuts_of_scan (putsScan_string enough chars plain zero)

/-! ### PUTSP -/

section
variable {n : Nat} {a : Word} {s : State} (plain : s.isDevice a = false)
include plain

/-- The last word of a packed string: its low byte, unless that is the zero byte. -/
theorem putspScan_plain_last (last : lowByte (s.mem.read a) = 0x00#8 ∨ highByte (s.mem.read a) = 0x00#8) :
    putspScan (n + 1) a s = some (s.setOutput
      (s.output ++ if lowByte (s.mem.read a) = 0x00#8 then [] else [lowByte (s.mem.read a)])) := by
  by_cases low : lowByte (s.mem.read a) = 0x00#8
  · simp [putspScan, s.memRead_plain a plain, low, State.setOutput]
  · have high := last.resolve_left low
    simp [putspScan, s.memRead_plain a plain, low, high, State.out_eq]

theorem putspScan_plain_chars (low : lowByte (s.mem.read a) ≠ 0x00#8) (high : highByte (s.mem.read a) ≠ 0x00#8) :
    putspScan (n + 1) a s =
      putspScan n (a + 1) ((s.out (lowByte (s.mem.read a))).out (highByte (s.mem.read a))) := by
  simp [putspScan, s.memRead_plain a plain, low, high]

end

/-- The characters of `n` words from `a` up, two from each. -/
def packedBytes (m : Memory) (a : Word) (n : Nat) : List Byte :=
  (List.range n).flatMap (fun k =>
    [lowByte (m.read (a + BitVec.ofNat 16 k)), highByte (m.read (a + BitVec.ofNat 16 k))])

theorem packedBytes_succ (m : Memory) (a : Word) (n : Nat) :
    packedBytes m a (n + 1) = lowByte (m.read a) :: highByte (m.read a) :: packedBytes m (a + 1) n := by
  simp only [packedBytes, List.range_succ_eq_map, List.flatMap_cons, List.flatMap_map, addr_zero,
    Nat.succ_eq_add_one, addr_succ, List.cons_append, List.nil_append]

/-- `n` plain words from `a` up with no zero byte. -/
def PlainPairs (s : State) (a : Word) (n : Nat) : Prop :=
  ∀ k, k < n → s.isDevice (a + BitVec.ofNat 16 k) = false ∧ lowByte (s.mem.read (a + BitVec.ofNat 16 k)) ≠ 0x00#8 ∧
    highByte (s.mem.read (a + BitVec.ofNat 16 k)) ≠ 0x00#8

theorem PlainPairs.head {s : State} {a : Word} {n : Nat} (h : PlainPairs s a (n + 1)) :
    s.isDevice a = false ∧ lowByte (s.mem.read a) ≠ 0x00#8 ∧ highByte (s.mem.read a) ≠ 0x00#8 := by
  simpa only [addr_zero] using h 0 n.succ_pos

theorem PlainPairs.tail {s : State} {a : Word} {n : Nat} (h : PlainPairs s a (n + 1)) (b c : Byte) :
    PlainPairs ((s.out b).out c) (a + 1) n := by
  intro k hk
  rw [← addr_succ]
  exact h (k + 1) (Nat.succ_lt_succ hk)

theorem putspScan_string {n reads : Nat} {a w : Word} {s : State} (enough : n < reads) (pairs : PlainPairs s a n)
    (plain : s.isDevice (a + BitVec.ofNat 16 n) = false) (word : s.mem.read (a + BitVec.ofNat 16 n) = w)
    (last : lowByte w = 0x00#8 ∨ highByte w = 0x00#8) :
    putspScan reads a s = some (s.setOutput
      (s.output ++ packedBytes s.mem a n ++ if lowByte w = 0x00#8 then [] else [lowByte w])) := by
  induction n generalizing reads a s with
  | zero =>
    obtain _ | reads := reads
    · omega
    rw [addr_zero] at plain word
    subst word
    rw [putspScan_plain_last plain last]
    simp [packedBytes]
  | succ n ih =>
    obtain _ | reads := reads
    · omega
    obtain ⟨plainHead, low, high⟩ := pairs.head
    rw [addr_succ] at plain word
    rw [putspScan_plain_chars plainHead low high, ih (by omega) (pairs.tail _ _) plain word, packedBytes_succ]
    simp

/-- Settles O42: the string and its last word are at most the scan's 65536 reads. -/
theorem putspWritesPackedString : Obligations.PutspWritesPackedString := by
  intro ign s n w small pairs plain word last
  exact exec_trapPutsp_of_scan (putspScan_string small pairs plain word last)

end Sys2Proof.Machine
end

section
/-! What no access of the core reads: the output channel and the fault record (10_state.md R33, R37). -/

namespace Sys2Proof.Machine

/-- `s` with another output channel and another fault record. -/
def State.setUnread (s : State) (o : List Byte) (f : Option FaultRecord) : State := (s.setOutput o).setFault f

section
variable (s : State) (o : List Byte) (f : Option FaultRecord)

theorem State.kbdPoll_setUnread : (s.setUnread o f).kbdPoll = s.kbdPoll.setUnread o f := by
  obtain ⟨regs, pc, cond, running, mem, kbReady, kbData, input, output, fault, config, draws⟩ := s
  cases kbReady with
  | true => rfl
  | false =>
    cases input with
    | nil => rfl
    | cons b rest => rfl

theorem State.kbdTake_setUnread : (s.setUnread o f).kbdTake = (s.kbdTake.1, s.kbdTake.2.setUnread o f) := by
  have ready : (s.kbdPoll.setUnread o f).kbReady = s.kbdPoll.kbReady := rfl
  simp only [State.kbdTake, State.kbdPoll_setUnread, ready]
  split <;> rfl

theorem State.readKbsr_setUnread : (s.setUnread o f).readKbsr = (s.readKbsr.1, s.readKbsr.2.setUnread o f) := by
  simp only [State.readKbsr, State.kbdPoll_setUnread]
  rfl

theorem State.readKbdr_setUnread : (s.setUnread o f).readKbdr = (s.readKbdr.1, s.readKbdr.2.setUnread o f) := by
  have ready : (s.kbdPoll.setUnread o f).kbReady = s.kbdPoll.kbReady := rfl
  simp only [State.readKbdr, State.kbdPoll_setUnread, ready]
  split <;> rfl

theorem State.memRead_setUnread (a : Word) :
    (s.setUnread o f).memRead a = ((s.memRead a).1, (s.memRead a).2.setUnread o f) := by
  have config : (s.setUnread o f).config = s.config := rfl
  simp only [State.memRead, config]
  split
  · exact s.readKbsr_setUnread o f
  · split
    · exact s.readKbdr_setUnread o f
    · rfl

theorem State.fetch_setUnread : (s.setUnread o f).fetch = (s.fetch.1, s.fetch.2.setUnread o f) := by
  have pc : (s.setUnread o f).pc = s.pc := rfl
  simp only [State.fetch, pc, State.memRead_setUnread]
  rfl

theorem State.memWrite_setUnread (a v : Word) : (s.setUnread o f).memWrite a v = (s.memWrite a v).setUnread o f := by
  have device : (s.setUnread o f).isDevice a = s.isDevice a := rfl
  simp only [State.memWrite, device]
  split <;> rfl

end

theorem State.fetch_setFault (s : State) (f : Option FaultRecord) :
    (s.setFault f).fetch = (s.fetch.1, s.fetch.2.setFault f) := by
  have fetched := s.fetch_setUnread s.output f
  have output : s.fetch.2.setUnread s.output f = s.fetch.2.setFault f := by
    rw [← s.fetch_output]
    rfl
  rw [output] at fetched
  exact fetched

end Sys2Proof.Machine
end

section
/-! The reports of `step()` (70_reset_and_hazards.md R264, R271). -/

namespace Sys2Proof.Machine

/-- What the report of a step says: it is about the state that the step gives from `s` without its old record. -/
theorem hostStep_eq_next_iff {s t : State} {report : StepReport} :
    hostStep s = .next (report, t) ↔
      step s = .next t ∧ ∃ u, step (s.setFault none) = .next u ∧ report = reportOf u := by
  unfold hostStep stepReport
  cases step (s.setFault none) <;> cases step s <;> simp [eq_comm, and_comm]

/-- On a running core both steps run the same instruction. -/
theorem step_setFault_running {s : State} (h : s.running = true) (f : Option FaultRecord) :
    step (s.setFault f) = exec (decode s.fetch.1) (s.fetch.2.setFault f) := by
  have running : (s.setFault f).running = true := h
  rw [step_running running, State.fetch_setFault]

/-- The record of the fatal error that a fatal instruction at pc enters. -/
def State.fatalRecord (s : State) : FaultRecord :=
  ⟨fatalKind (decode s.fetch.1), s.pc, s.fetch.1, fatalDetail (decode s.fetch.1)⟩

theorem State.raiseFatal_fetch (s : State) (f : Option FaultRecord) :
    (s.fetch.2.setFault f).raiseFatal (fatalKind (decode s.fetch.1)) (encode (decode s.fetch.1))
      (fatalDetail (decode s.fetch.1)) = (s.fetch.2.setFault (some s.fatalRecord)).setRunning false := by
  have faultPc : (s.fetch.2.setFault f).pc - 1 = s.pc := BitVec.add_sub_cancel s.pc 1
  rw [State.raiseFatal, faultPc, encode_decode]
  rfl

section
variable {s : State} (running : s.running = true)
include running

theorem hostStep_halt (halt : isHalt (decode s.fetch.1) = true) :
    hostStep s = .next (.halted, s.fetch.2.halt) := by
  refine hostStep_eq_next_iff.2 ⟨?_, (s.fetch.2.setFault none).halt, ?_, rfl⟩
  · rw [step_running running, exec_halt halt]
  · rw [step_setFault_running running, exec_halt halt]

theorem hostStep_fatal (fatal : isFatal (decode s.fetch.1) = true) :
    hostStep s = .next (.err s.fatalRecord, (s.fetch.2.setFault (some s.fatalRecord)).setRunning false) := by
  refine hostStep_eq_next_iff.2 ⟨?_, (s.fetch.2.setFault (some s.fatalRecord)).setRunning false, ?_, rfl⟩
  · rw [step_running running, exec_fatal fatal, ← s.raiseFatal_fetch s.fetch.2.fault]
    rfl
  · rw [step_setFault_running running, exec_fatal fatal, s.raiseFatal_fetch]

theorem reportOf_goesOn {u : State} (notHalt : isHalt (decode s.fetch.1) = false)
    (notFatal : isFatal (decode s.fetch.1) = false) (h : step (s.setFault none) = .next u) :
    reportOf u = .continued := by
  rw [step_setFault_running running] at h
  have goesOn := exec_goesOn notHalt notFatal h
  simp [reportOf, goesOn.running, running]

theorem hostStep_goesOn (wf : s.config.wf) (notHalt : isHalt (decode s.fetch.1) = false)
    (notFatal : isFatal (decode s.fetch.1) = false) {t : State} (h : step s = .next t) :
    hostStep s = .next (.continued, t) ∧ t.running = true := by
  obtain ⟨u, unrecorded⟩ := stepAlwaysAnswersNext (s.setFault none) wf
  refine ⟨hostStep_eq_next_iff.2 ⟨h, u, unrecorded, (reportOf_goesOn running notHalt notFatal unrecorded).symm⟩, ?_⟩
  rw [step_running running] at h
  simp [(exec_goesOn notHalt notFatal h).running, running]

end

/-- Settles O48, by what the step runs: HALT, a fatal instruction, or one that goes on. -/
theorem stepReportsFollowStateMachine : Obligations.StepReportsFollowStateMachine := by
  refine ⟨fun s halted => ⟨step_halted halted, hostStep_halted halted⟩, ?running⟩
  case running =>
    intro s running wf
    obtain ⟨t, h⟩ := stepAlwaysAnswersNext s wf
    refine ⟨t, h, fun halt => ?halted, fun fatal => ?fatal, fun notHalt notFatal => ?goesOn⟩
    case halted =>
      have report := hostStep_halt running halt
      obtain ⟨now, -⟩ := hostStep_eq_next_iff.1 report
      cases h.symm.trans now
      exact ⟨report, rfl⟩
    case fatal =>
      have report := hostStep_fatal running fatal
      obtain ⟨now, -⟩ := hostStep_eq_next_iff.1 report
      cases h.symm.trans now
      exact ⟨s.fatalRecord, report, rfl, rfl, rfl, rfl⟩
    case goesOn => exact hostStep_goesOn running wf notHalt notFatal h

end Sys2Proof.Machine
end

section
/-! The points of `run` (70_reset_and_hazards.md R265, R270). -/

namespace Sys2Proof.Machine

section
variable {s t : State} {p : RunPoint} (ps : List RunPoint)

theorem run_stop (stop : p.stop = true) : run (p :: ps) s = .next (.ok, (s.atPoint p).1, (s.atPoint p).2) := by
  simp [run, stop]

theorem run_halted (go : p.stop = false) (h : hostStep (s.atPoint p).2 = .next (.halted, t)) :
    run (p :: ps) s = .next (.ok, (s.atPoint p).1, t) := by
  simp [run, go, h]

theorem run_err {r : FaultRecord} (go : p.stop = false) (h : hostStep (s.atPoint p).2 = .next (.err r, t)) :
    run (p :: ps) s = .next (.err r, (s.atPoint p).1, t) := by
  simp [run, go, h]

theorem run_continued {ps : List RunPoint} {result : RunResult} {popped : List (Option Byte)} {u : State}
    (go : p.stop = false) (h : hostStep (s.atPoint p).2 = .next (.continued, t))
    (rest : run ps t = .next (result, popped, u)) :
    run (p :: ps) s = .next (result, (s.atPoint p).1 ++ popped, u) := by
  simp [run, go, h, rest]

theorem State.atPoint_running (s : State) (p : RunPoint) : (s.atPoint p).2.running = s.running := by
  rw [State.atPoint_eq]
  rfl

/-- On a halted core `run` ends with Ok at its first point, with no step made. -/
theorem run_on_halted (halted : s.running = false) :
    run (p :: ps) s = .next (.ok, (s.atPoint p).1, (s.atPoint p).2) := by
  cases stop : p.stop with
  | true => exact run_stop ps stop
  | false => exact run_halted ps stop (hostStep_halted (by rw [State.atPoint_running, halted]))

end

/-- Settles O58: the host's actions at a point, then the branches of `run`. -/
theorem runChecksSignalBeforeEachStep : Obligations.RunChecksSignalBeforeEachStep := by
  intro s t p ps r
  refine ⟨?actions, run_stop ps, run_halted ps, run_err ps, fun _ _ _ => run_continued⟩
  case actions =>
    rw [State.atPoint_eq]
    rfl

end Sys2Proof.Machine
end

section
/-! A fatal error is reported once (60_exceptions.md R225, R226). -/

namespace Sys2Proof.Machine

/-- A step that reports an error ran a fatal instruction on a running core. -/
theorem fatal_of_hostStep_err {s t : State} {r : FaultRecord} (h : hostStep s = .next (.err r, t)) :
    s.running = true ∧ isFatal (decode s.fetch.1) = true := by
  cases running : s.running with
  | false => cases (hostStep_halted running).symm.trans h
  | true =>
    refine ⟨rfl, ?_⟩
    cases halt : isHalt (decode s.fetch.1) with
    | true => cases (hostStep_halt running halt).symm.trans h
    | false =>
      by_contra notFatal
      obtain ⟨-, u, unrecorded, report⟩ := hostStep_eq_next_iff.1 h
      cases report.trans (reportOf_goesOn running halt (Bool.eq_false_of_not_eq_true notFatal) unrecorded)

/-- From a halted core, commands with no successful load among them change the channels alone. -/
theorem channels_of_reachedWithoutLoad {t u : State} (halted : t.running = false) (reached : ReachedWithoutLoad t u) :
    ∃ i o, u = (t.setInput i).setOutput o := by
  induction reached with
  | start => exact ⟨t.input, t.output, rfl⟩
  | command c v u _ fails h ih =>
    obtain ⟨i, o, rfl⟩ := ih
    cases c with
    | load bytes =>
      obtain ⟨e, err⟩ := fails bytes rfl
      cases h
      exact ⟨i, o, State.load_err err⟩
    | step =>
      have stays : step ((t.setInput i).setOutput o) = .next ((t.setInput i).setOutput o) := step_halted halted
      cases stays.symm.trans h
      exact ⟨i, o, rfl⟩
    | pushInput b => cases h; exact ⟨i ++ [b], o, rfl⟩
    | popOutput => cases h; exact ⟨i, o.drop 1, State.popOutput_state _⟩

/-- Settles O49: the error's own step leaves its record on a halted core; what follows changes the channels alone. -/
theorem fatalErrorIsReportedOnce : Obligations.FatalErrorIsReportedOnce := by
  intro s t r h
  obtain ⟨running, fatal⟩ := fatal_of_hostStep_err h
  cases (hostStep_fatal running fatal).symm.trans h
  refine ⟨rfl, ⟨rfl, Option.some_ne_none _⟩, fun u reached => ?after⟩
  case after =>
    obtain ⟨i, o, rfl⟩ := channels_of_reachedWithoutLoad rfl reached
    refine ⟨rfl, rfl, fun _ _ => rfl, rfl, rfl, fun _ => rfl, rfl, rfl, step_halted rfl, hostStep_halted rfl,
      fun p ps => run_on_halted ps rfl, fun bytes origin ok => ?load⟩
    case load =>
      obtain ⟨cleared, started, -⟩ := State.load_ok ok
      exact ⟨cleared, started⟩

end Sys2Proof.Machine
end

section
/-! A program cannot read the output channel (10_state.md R37): every meaning does the same behind an earlier output. -/

namespace Sys2Proof.Machine

/-- `s` with `old` in front of what the output channel holds. -/
def State.behind (s : State) (old : List Byte) : State := s.setUnread (old ++ s.output) s.fault

/-- The same of the state an outcome may hold. -/
def outcomeBehind (old : List Byte) : Host.Outcome State Fault Refusal → Host.Outcome State Fault Refusal
  | .next t => .next (t.behind old)
  | .fault f => .fault f
  | .refused r => .refused r

section
variable (s : State) (old : List Byte)

theorem State.memRead_behind (a : Word) :
    (s.behind old).memRead a = ((s.memRead a).1, (s.memRead a).2.behind old) := by
  rw [State.behind, State.memRead_setUnread, State.behind, State.memRead_output, State.memRead_fault]

theorem State.kbdTake_behind : (s.behind old).kbdTake = (s.kbdTake.1, s.kbdTake.2.behind old) := by
  rw [State.behind, State.kbdTake_setUnread, State.behind, State.kbdTake_output, State.kbdTake_fault]

theorem State.fetch_behind : (s.behind old).fetch = (s.fetch.1, s.fetch.2.behind old) := by
  rw [State.behind, State.fetch_setUnread, State.behind, State.fetch_output, State.fetch_fault]

theorem State.memWrite_behind (a v : Word) : (s.behind old).memWrite a v = (s.memWrite a v).behind old := by
  rw [State.behind, State.memWrite_setUnread, State.behind, State.memWrite_output, State.memWrite_fault]

theorem State.out_behind (b : Byte) : (s.behind old).out b = (s.out b).behind old := by
  have assoc : old ++ s.output ++ [b] = old ++ (s.output ++ [b]) := List.append_assoc _ _ _
  simp only [State.behind, State.setUnread, State.out]
  exact congrArg s.setOutput assoc

theorem State.loadFrom_behind (dr : Reg) (ea : Word) :
    (s.behind old).loadFrom dr ea = (s.loadFrom dr ea).behind old := by
  simp only [State.loadFrom, State.memRead_behind]
  rfl

end

theorem putsScan_behind (n : Nat) (a : Word) (s : State) (old : List Byte) :
    putsScan n a (s.behind old) = (putsScan n a s).map (State.behind · old) := by
  induction n generalizing a s with
  | zero => rfl
  | succ n ih =>
    simp only [putsScan, State.memRead_behind]
    split
    · rfl
    · rw [State.out_behind, ih]

theorem putspScan_behind (n : Nat) (a : Word) (s : State) (old : List Byte) :
    putspScan n a (s.behind old) = (putspScan n a s).map (State.behind · old) := by
  induction n generalizing a s with
  | zero => rfl
  | succ n ih =>
    simp only [putspScan, State.memRead_behind]
    split
    · rfl
    · split
      · rw [State.out_behind]; rfl
      · rw [State.out_behind, State.out_behind, ih]

section
variable (s : State) (old : List Byte)

theorem execBr_behind (nzp : BitVec 3) (off : BitVec 9) :
    execBr nzp off (s.behind old) = outcomeBehind old (execBr nzp off s) := by
  have cond : (s.behind old).cond = s.cond := rfl
  simp only [execBr, cond]
  split <;> rfl

theorem execLdi_behind (dr : Reg) (off : BitVec 9) :
    execLdi dr off (s.behind old) = outcomeBehind old (execLdi dr off s) := by
  have ea : (s.behind old).pcRel off = s.pcRel off := rfl
  simp only [execLdi, ea, State.memRead_behind, State.loadFrom_behind, outcomeBehind]

theorem execSti_behind (sr : Reg) (off : BitVec 9) :
    execSti sr off (s.behind old) = outcomeBehind old (execSti sr off s) := by
  have ea : (s.behind old).pcRel off = s.pcRel off := rfl
  simp only [execSti, ea, State.memRead_behind, State.memWrite_behind, outcomeBehind]
  rfl

theorem execTrapGetc_behind : execTrapGetc (s.behind old) = outcomeBehind old (execTrapGetc s) := by
  simp only [execTrapGetc, State.kbdTake_behind]
  obtain ⟨_ | c, t⟩ := s.kbdTake <;> rfl

theorem execTrapIn_behind : execTrapIn (s.behind old) = outcomeBehind old (execTrapIn s) := by
  simp only [execTrapIn, State.kbdTake_behind]
  obtain ⟨_ | c, t⟩ := s.kbdTake
  · rfl
  · have prompt : (t.behind old).setOutput ((t.behind old).output ++ t.config.inPrompt) =
        (t.setOutput (t.output ++ t.config.inPrompt)).behind old :=
      congrArg t.setOutput (List.append_assoc old t.output t.config.inPrompt)
    have config : (t.behind old).config = t.config := rfl
    simp only [config, prompt, State.out_behind]
    rfl

theorem scanOutcome_behind (scanned : Option State) :
    scanOutcome (scanned.map (State.behind · old)) = outcomeBehind old (scanOutcome scanned) := by
  cases scanned <;> rfl

theorem execTrapPuts_behind : execTrapPuts (s.behind old) = outcomeBehind old (execTrapPuts s) := by
  have reads : putsReads (s.behind old) = putsReads s := rfl
  have start : (s.behind old).reg 0 = s.reg 0 := rfl
  rw [execTrapPuts_eq, execTrapPuts_eq, reads, start, putsScan_behind, scanOutcome_behind]

theorem execTrapPutsp_behind : execTrapPutsp (s.behind old) = outcomeBehind old (execTrapPutsp s) := by
  have start : (s.behind old).reg 0 = s.reg 0 := rfl
  rw [execTrapPutsp_eq, execTrapPutsp_eq, start, putspScan_behind, scanOutcome_behind]

end

theorem exec_behind (i : Instr) (s : State) (old : List Byte) :
    exec i (s.behind old) = outcomeBehind old (exec i s) := by
  cases i with
  | br nzp off => exact execBr_behind s old nzp off
  | ld dr off | ldr dr base off => exact congrArg Host.Outcome.next (s.loadFrom_behind old dr _)
  | ldi dr off => exact execLdi_behind s old dr off
  | st sr off | str sr base off => exact congrArg Host.Outcome.next (s.memWrite_behind old _ _)
  | sti sr off => exact execSti_behind s old sr off
  | trapGetc => exact execTrapGetc_behind s old
  | trapOut => exact congrArg Host.Outcome.next (s.out_behind old _)
  | trapPuts => exact execTrapPuts_behind s old
  | trapIn => exact execTrapIn_behind s old
  | trapPutsp => exact execTrapPutsp_behind s old
  | addReg | addImm | andReg | andImm | not | lea | jmp | ret | jsr | jsrr | trapHalt | illegal8 | illegalD | trap =>
    rfl

theorem step_behind (s : State) (old : List Byte) : step (s.behind old) = outcomeBehind old (step s) := by
  cases running : s.running with
  | false =>
    have halted : (s.behind old).running = false := running
    rw [step_halted running, step_halted halted, outcomeBehind]
  | true =>
    have goes : (s.behind old).running = true := running
    rw [step_running running, step_running goes, State.fetch_behind, exec_behind]

/-- Settles O50: the fetch and every meaning do the same behind an earlier output. -/
theorem outputCannotBeRead : Obligations.OutputCannotBeRead := by
  intro s old
  have same := step_behind s old
  cases h : step s <;> rw [h] at same <;> exact same

end Sys2Proof.Machine
end

section
/-! The operate instructions (40_operate.md R110 to R114). -/

namespace Sys2Proof.Machine

theorem State.writeResult_eq_update (s : State) (dr : Reg) (v : Word) :
    s.writeResult dr v = { s with regs := s.regs.set dr v, cond := condOf v } := rfl

theorem exec_addReg (dr sr1 sr2 : Reg) (ign : BitVec 2) (s : State) :
    exec (.addReg dr sr1 ign sr2) s = .next (s.writeResult dr (s.reg sr1 + s.reg sr2)) := rfl

theorem exec_addImm (dr sr1 : Reg) (imm : BitVec 5) (s : State) :
    exec (.addImm dr sr1 imm) s = .next (s.writeResult dr (s.reg sr1 + sext imm)) := rfl

theorem exec_andReg (dr sr1 sr2 : Reg) (ign : BitVec 2) (s : State) :
    exec (.andReg dr sr1 ign sr2) s = .next (s.writeResult dr (s.reg sr1 &&& s.reg sr2)) := rfl

theorem exec_andImm (dr sr1 : Reg) (imm : BitVec 5) (s : State) :
    exec (.andImm dr sr1 imm) s = .next (s.writeResult dr (s.reg sr1 &&& sext imm)) := rfl

theorem exec_not (dr sr : Reg) (ign : BitVec 6) (s : State) :
    exec (.not dr sr ign) s = .next (s.writeResult dr (~~~ s.reg sr)) := rfl

/-- Settles O16: the mask fixes the opcode and the mode bit, and the meaning writes the sum as the result. -/
theorem addRegisterWritesSumAndFlags : Obligations.AddRegisterWritesSumAndFlags := by
  refine ⟨fun w h => decode_of_opcodeOf_add_register (opcodeOf_of_row h) (field_of_row h), fun dr sr1 sr2 ign s => ?_⟩
  rw [exec_addReg, State.writeResult_eq_update]

/-- Settles O17: the mask fixes the opcode and the mode bit, and the meaning writes the sum with the immediate. -/
theorem addImmediateWritesSumAndFlags : Obligations.AddImmediateWritesSumAndFlags := by
  refine ⟨fun w h => decode_of_opcodeOf_add_immediate (opcodeOf_of_row h) (field_of_row h), fun dr sr1 imm s => ?_⟩
  rw [exec_addImm, State.writeResult_eq_update]

/-- Settles O18: the mask fixes the opcode and the mode bit, and the meaning writes the bitwise and. -/
theorem andRegisterWritesBitsAndFlags : Obligations.AndRegisterWritesBitsAndFlags := by
  refine ⟨fun w h => decode_of_opcodeOf_and_register (opcodeOf_of_row h) (field_of_row h), fun dr sr1 sr2 ign s => ?_⟩
  rw [exec_andReg, State.writeResult_eq_update]

/-- Settles O19: as the register form, with the extended immediate; #0 extends to no bits and #-1 to all of them. -/
theorem andImmediateWritesBitsAndFlags : Obligations.AndImmediateWritesBitsAndFlags := by
  refine ⟨fun w h => decode_of_opcodeOf_and_immediate (opcodeOf_of_row h) (field_of_row h), ?meaning, ?corners⟩
  case meaning =>
    intro dr sr1 imm s
    rw [exec_andImm, State.writeResult_eq_update]
  case corners =>
    intro dr sr1 s
    have noBits : sext (0 : BitVec 5) = 0#16 := by decide
    have allBits : sext (0b11111 : BitVec 5) = BitVec.allOnes 16 := by decide
    constructor
    · rw [exec_andImm, noBits, BitVec.and_zero]
      rfl
    · rw [exec_andImm, allBits, BitVec.and_allOnes, State.writeResult_eq_update]

/-- Settles O20: the mask fixes the opcode, and the meaning writes the complement. -/
theorem notWritesComplementAndFlags : Obligations.NotWritesComplementAndFlags := by
  refine ⟨fun w h => decode_of_opcodeOf_not (opcodeOf_of_row h), fun dr sr ign s => ?_⟩
  rw [exec_not, State.writeResult_eq_update]

end Sys2Proof.Machine
end

section
/-! Flags: what `setcc` writes (10_state.md R28). -/

namespace Sys2Proof.Machine

/-- Everything `condOf` can be, by the sign of the value. -/
theorem condOf_cases (v : Word) :
    (v.toInt < 0 ∧ condOf v = 0b100#3) ∨ (v.toInt = 0 ∧ condOf v = 0b010#3) ∨ (0 < v.toInt ∧ condOf v = 0b001#3) := by
  have sign : v.getLsbD 15 = v.msb := (v.msb_eq_getLsbD_last).symm
  have negative : v.msb = true ↔ v.toInt < 0 := by rw [BitVec.msb_eq_toInt, decide_eq_true_iff]
  have zero : v = 0x0000#16 ↔ v.toInt = 0 := BitVec.toInt_inj.symm
  unfold condOf
  rw [sign]
  split
  case isTrue neg => exact .inl ⟨negative.1 neg, rfl⟩
  case isFalse notNeg =>
    have atLeast : ¬ v.toInt < 0 := mt negative.2 notNeg
    split
    case isTrue z => exact .inr (.inl ⟨zero.1 z, rfl⟩)
    case isFalse notZ => exact .inr (.inr ⟨by have := mt zero.2 notZ; omega, rfl⟩)

/-- Settles O8: the three values of `condOf` differ, and each goes with one sign. -/
theorem setccClassifies : Obligations.SetccClassifies := by
  intro s v
  have cond : (s.setcc v).cond = condOf v := rfl
  refine ⟨rfl, ?_⟩
  rw [cond]
  obtain ⟨sign, e⟩ | ⟨sign, e⟩ | ⟨sign, e⟩ := condOf_cases v
  · rw [e]
    exact ⟨iff_of_true rfl sign, iff_of_false (by decide) (by omega), iff_of_false (by decide) (by omega)⟩
  · rw [e]
    exact ⟨iff_of_false (by decide) (by omega), iff_of_true rfl sign, iff_of_false (by decide) (by omega)⟩
  · rw [e]
    exact ⟨iff_of_false (by decide) (by omega), iff_of_false (by decide) (by omega), iff_of_true rfl sign⟩

end Sys2Proof.Machine
end

section
/-! Control transfer (41_control.md R120 to R124). -/

namespace Sys2Proof.Machine

theorem exec_br (nzp : BitVec 3) (off : BitVec 9) (s : State) :
    exec (.br nzp off) s = .next (s.setPc (if nzp &&& s.cond ≠ 0b000#3 then s.pc + sext off else s.pc)) := by
  have meaning : exec (.br nzp off) s = .next (if condMatches nzp s.cond then s.setPc (s.pcRel off) else s) := rfl
  rw [meaning, condMatches]
  by_cases taken : nzp &&& s.cond ≠ 0b000#3
  · rw [if_pos taken, if_pos (decide_eq_true taken), State.pcRel]
  · rw [if_neg taken, if_neg (by simpa using taken)]
    rfl

theorem exec_jmp (ignHi : BitVec 3) (base : Reg) (ignLo : BitVec 6) (s : State) :
    exec (.jmp ignHi base ignLo) s = .next (s.setPc (s.reg base)) := rfl

theorem exec_ret (ignHi : BitVec 3) (ignLo : BitVec 6) (s : State) :
    exec (.ret ignHi ignLo) s = .next (s.setPc (s.reg 7)) := rfl

theorem exec_jsr (off : BitVec 11) (s : State) :
    exec (.jsr off) s = .next ((s.setReg 7 s.pc).setPc (s.pcRel off)) := rfl

theorem exec_jsrr (ignHi : BitVec 2) (base : Reg) (ignLo : BitVec 6) (s : State) :
    exec (.jsrr ignHi base ignLo) s = .next ((s.setReg 7 s.pc).setPc ((s.setReg 7 s.pc).reg base)) := rfl

/-- Settles O22: the three clauses are one equation, for any flags, for no requested bit and for all of them. -/
theorem brTakenWhenRequestedFlagIsSet : Obligations.BrTakenWhenRequestedFlagIsSet := by
  intro nzp off s
  refine ⟨exec_br nzp off s, ?never, fun hot => ?always⟩
  case never =>
    have none : ¬ (0b000 &&& s.cond ≠ 0b000#3) := not_not_intro BitVec.zero_and
    rw [exec_br, if_neg none]
    rfl
  case always =>
    have requested : 0b111 &&& s.cond ≠ 0b000#3 := by
      obtain e | e | e := hot <;> rw [e] <;> decide
    rw [exec_br, if_pos requested]
    rfl

/-- Settles O23: the base register goes to pc. -/
theorem jmpGoesToRegister : Obligations.JmpGoesToRegister := fun ignHi base ignLo s => exec_jmp ignHi base ignLo s

/-- The return address that JSR and JSRR leave in R7. -/
theorem link_of_call {off : BitVec 11} {i2 : BitVec 2} {base : Reg} {i6 : BitVec 6} {s t : State}
    (call : exec (.jsr off) s = .next t ∨ exec (.jsrr i2 base i6) s = .next t) : t.reg 7 = s.pc := by
  rw [exec_jsr, exec_jsrr] at call
  obtain call | call := call
  all_goals
    cases call
    rw [State.reg_setPc, State.reg_setReg_same]

/-- Settles O24: RET's row and canonical word, and its target, which after a call is the linked address. -/
theorem retReturnsThroughR7 : Obligations.RetReturnsThroughR7 := by
  refine ⟨fun w h => decode_of_opcodeOf_ret (opcodeOf_of_row h) (field_of_row h), ?word, ?meaning, ?afterCall⟩
  case word =>
    have wordOfRet : encode (.ret 0 0) = 0xC1C0 := by decide
    rw [← wordOfRet]
    exact Laws.DecodeEncode.ret 0 0 rfl
  case meaning =>
    intro ignHi ignLo s
    exact ⟨exec_ret ignHi ignLo s, rfl⟩
  case afterCall =>
    intro off i2 base i6 ignHi ignLo s t u call kept
    rw [exec_ret, kept, link_of_call call]
    rfl

/-- Settles O25: JSRR's base is read after the link is written, which only matters for R7. -/
theorem jsrAndJsrrLinkThenJump : Obligations.JsrAndJsrrLinkThenJump := by
  intro off ignHi base ignLo s
  refine ⟨exec_jsr off s, ?jsrr⟩
  case jsrr =>
    rw [exec_jsrr]
    by_cases seven : base = 7
    · rw [seven, State.reg_setReg_same, if_pos rfl]
      rfl
    · rw [State.reg_setReg_other s 7 base s.pc seven, if_neg seven]
      rfl

end Sys2Proof.Machine
end

section
/-! Frames of the operate instructions, LEA and the control transfers: only the last act changes the state. -/

namespace Sys2Proof.Machine

theorem State.reg_writeResult_other (s : State) {dr r : Reg} (v : Word) (h : r ≠ dr) :
    (s.writeResult dr v).reg r = s.reg r :=
  s.reg_setReg_other dr r v h

theorem sameRegsBut_writeResult (s : State) (dr : Reg) (v : Word) : SameRegsBut [dr] s (s.writeResult dr v) :=
  fun _ other => s.reg_writeResult_other v (List.ne_of_not_mem_cons other)

theorem sameRegsBut_setReg (s : State) (r : Reg) (v : Word) : SameRegsBut [r] s (s.setReg r v) :=
  fun q other => s.reg_setReg_other r q v (List.ne_of_not_mem_cons other)

/-- Settles O21: each of the six ends in `writeResult` on the state before it. -/
theorem operateAndLeaFrame : Obligations.OperateAndLeaFrame := by
  intro dr sr1 sr2 i2 imm i6 off s t h
  have result : ∃ v, t = s.writeResult dr v := by
    obtain h | h | h | h | h | h := h
    all_goals
      cases h
      exact ⟨_, rfl⟩
  obtain ⟨v, rfl⟩ := result
  exact ⟨sameRegsBut_writeResult s dr v, fun _ => rfl, rfl, rfl, ⟨rfl, rfl, rfl, rfl⟩, rfl, ⟨rfl, rfl⟩, rfl⟩

theorem jump_eq_setPc {nzp ignHi : BitVec 3} {off : BitVec 9} {base : Reg} {ignLo : BitVec 6} {s t : State}
    (h : exec (.br nzp off) s = .next t ∨ exec (.jmp ignHi base ignLo) s = .next t ∨
      exec (.ret ignHi ignLo) s = .next t) : ∃ target, t = s.setPc target := by
  obtain h | h | h := h
  · cases (exec_br nzp off s).symm.trans h
    exact ⟨_, rfl⟩
  · cases h
    exact ⟨_, rfl⟩
  · cases h
    exact ⟨_, rfl⟩

theorem call_eq_link_setPc {off : BitVec 11} {i2 : BitVec 2} {base : Reg} {ignLo : BitVec 6} {s t : State}
    (h : exec (.jsr off) s = .next t ∨ exec (.jsrr i2 base ignLo) s = .next t) :
    ∃ target, t = (s.setReg 7 s.pc).setPc target := by
  obtain h | h := h
  all_goals
    cases h
    exact ⟨_, rfl⟩

theorem control_eq_setRegs_setPc {nzp ignHi : BitVec 3} {off : BitVec 9} {base : Reg} {ignLo : BitVec 6}
    {off11 : BitVec 11} {i2 : BitVec 2} {s t : State}
    (h : exec (.br nzp off) s = .next t ∨ exec (.jmp ignHi base ignLo) s = .next t ∨
      exec (.ret ignHi ignLo) s = .next t ∨ exec (.jsr off11) s = .next t ∨ exec (.jsrr i2 base ignLo) s = .next t) :
    ∃ regs target, t = (s.setRegs regs).setPc target := by
  obtain br | jmp | ret | call := h
  · obtain ⟨target, rfl⟩ := jump_eq_setPc (ignHi := ignHi) (base := base) (ignLo := ignLo) (.inl br)
    exact ⟨s.regs, target, rfl⟩
  · cases jmp
    exact ⟨s.regs, _, rfl⟩
  · cases ret
    exact ⟨s.regs, _, rfl⟩
  · obtain ⟨target, rfl⟩ := call_eq_link_setPc call
    exact ⟨s.regs.set 7 s.pc, target, rfl⟩

/-- Settles O26: a jump writes pc alone, a call R7 before it. -/
theorem controlFrame : Obligations.ControlFrame := by
  intro nzp ignHi off base ignLo off11 i2 s t
  refine ⟨fun jump => ?jumpRegs, fun call => ?callRegs, fun h => ?rest⟩
  case jumpRegs =>
    obtain ⟨target, rfl⟩ := jump_eq_setPc jump
    exact fun _ _ => rfl
  case callRegs =>
    obtain ⟨target, rfl⟩ := call_eq_link_setPc call
    exact sameRegsBut_setReg s 7 s.pc
  case rest =>
    obtain ⟨regs, target, rfl⟩ := control_eq_setRegs_setPc h
    exact ⟨fun _ => rfl, rfl, rfl, ⟨rfl, rfl, rfl, rfl⟩, rfl, ⟨rfl, rfl⟩, rfl⟩

end Sys2Proof.Machine
end

section
/-! Loads and stores through a pointer, and the frames of all loads and stores: a read changes the keyboard alone. -/

namespace Sys2Proof.Machine

/-! ### What a read leaves alone -/

/-- `t` is `s` with another keyboard state. -/
structure OnlyKeyboard (s t : State) : Prop where
  regs : t.regs = s.regs
  pc : t.pc = s.pc
  cond : t.cond = s.cond
  running : t.running = s.running
  mem : t.mem = s.mem
  output : t.output = s.output
  fault : t.fault = s.fault
  config : t.config = s.config

theorem OnlyKeyboard.refl (s : State) : OnlyKeyboard s s := by
  constructor <;> rfl

theorem OnlyKeyboard.memRead (s : State) (a : Word) : OnlyKeyboard s (s.memRead a).2 := by
  constructor <;> simp

theorem OnlyKeyboard.kbdTake (s : State) : OnlyKeyboard s s.kbdTake.2 := by
  constructor <;> simp

section
variable {s t : State} (h : OnlyKeyboard s t)
include h

theorem OnlyKeyboard.trans {u : State} (h' : OnlyKeyboard t u) : OnlyKeyboard s u where
  regs := h'.regs.trans h.regs
  pc := h'.pc.trans h.pc
  cond := h'.cond.trans h.cond
  running := h'.running.trans h.running
  mem := h'.mem.trans h.mem
  output := h'.output.trans h.output
  fault := h'.fault.trans h.fault
  config := h'.config.trans h.config

theorem OnlyKeyboard.reg (r : Reg) : t.reg r = s.reg r := by
  rw [State.reg, h.regs, State.reg]

theorem OnlyKeyboard.isDevice (a : Word) : t.isDevice a = s.isDevice a := by
  rw [State.isDevice, h.config, State.isDevice]

end

/-! ### Loads -/

theorem exec_ldi (dr : Reg) (off : BitVec 9) (s : State) :
    exec (.ldi dr off) s = .next ((s.memRead (s.pcRel off)).2.loadFrom dr (s.memRead (s.pcRel off)).1) := rfl

/-- Settles O28: the pointer read, then a load from the word it answers. -/
theorem ldiLoadsThroughPointer : Obligations.LdiLoadsThroughPointer := by
  intro dr off s p ea pointer
  have regs : p.regs = s.regs := by
    rw [← s.memRead_regs (s.pc + sext off), pointer]
  rw [exec_ldi, State.pcRel, pointer, State.loadFrom_eq, regs]

theorem load_eq_writeResult {dr base : Reg} {off : BitVec 9} {off6 : BitVec 6} {s t : State}
    (h : exec (.ld dr off) s = .next t ∨ exec (.ldi dr off) s = .next t ∨ exec (.ldr dr base off6) s = .next t) :
    ∃ u v, OnlyKeyboard s u ∧ t = u.writeResult dr v := by
  obtain h | h | h := h
  · cases h
    exact ⟨_, _, .memRead _ _, rfl⟩
  · cases h
    exact ⟨_, _, (OnlyKeyboard.memRead _ _).trans (.memRead _ _), rfl⟩
  · cases h
    exact ⟨_, _, .memRead _ _, rfl⟩

theorem sameKeyboard_loadFrom (s : State) (dr : Reg) (ea : Word) :
    SameKeyboard (s.memRead ea).2 (s.loadFrom dr ea) := ⟨rfl, rfl, rfl, rfl⟩

theorem sameKeyboard_loadFrom_plain {s : State} {ea : Word} (dr : Reg) (plain : s.isDevice ea = false) :
    SameKeyboard s (s.loadFrom dr ea) := by
  have same := sameKeyboard_loadFrom s dr ea
  rwa [s.memRead_plain ea plain] at same

/-- Settles O31: reads change the keyboard alone, and the last act DR and COND. -/
theorem loadFrame : Obligations.LoadFrame := by
  intro dr base off off6 s t
  refine ⟨fun h => ?frame, fun h => ?ld, fun h => ?ldr, fun h => ?ldi⟩
  case frame =>
    obtain ⟨u, v, same, rfl⟩ := load_eq_writeResult h
    exact ⟨fun r other => (sameRegsBut_writeResult u dr v r other).trans (same.reg r),
      fun a => congrArg (·.read a) same.mem, same.mem, same.pc, same.output, ⟨same.running, same.fault⟩, same.config⟩
  case ld =>
    cases h
    exact ⟨sameKeyboard_loadFrom _ _ _, sameKeyboard_loadFrom_plain dr⟩
  case ldr =>
    cases h
    exact ⟨sameKeyboard_loadFrom _ _ _, sameKeyboard_loadFrom_plain dr⟩
  case ldi =>
    cases (exec_ldi dr off s).symm.trans h
    refine ⟨sameKeyboard_loadFrom _ _ _, fun plainPointer plainData => ?_⟩
    rw [s.memRead_plain _ plainPointer]
    exact sameKeyboard_loadFrom_plain dr plainData

/-! ### Stores -/

theorem exec_sti (sr : Reg) (off : BitVec 9) (s : State) :
    exec (.sti sr off) s = .next ((s.memRead (s.pcRel off)).2.memWrite (s.memRead (s.pcRel off)).1 (s.reg sr)) := by
  rw [← s.reg_memRead (s.pcRel off) sr]
  rfl

/-- R59: a write to a device address is ignored. -/
theorem State.memWrite_device {s : State} {a : Word} (v : Word) (device : s.isDevice a = true) :
    s.memWrite a v = s := by
  rw [State.memWrite, if_pos device]

/-- Settles O33: the pointer read, then a `memWrite` at the word it answers. -/
theorem stiStoresThroughPointer : Obligations.StiStoresThroughPointer := by
  intro sr off s p ea pointer
  have same : OnlyKeyboard s p := by
    have read := OnlyKeyboard.memRead s (s.pc + sext off)
    rwa [pointer] at read
  refine ⟨p.memWrite ea (s.reg sr), by rw [exec_sti, State.pcRel, pointer], rfl, fun plain => ?_, fun device => ?_⟩
  · exact p.read_memWrite_same_of_plain ea _ ((same.isDevice ea).trans plain)
  · exact State.memWrite_device _ ((same.isDevice ea).trans device)

theorem store_eq_memWrite {sr base : Reg} {off : BitVec 9} {off6 : BitVec 6} {s t : State}
    (h : exec (.st sr off) s = .next t ∨ exec (.sti sr off) s = .next t ∨ exec (.str sr base off6) s = .next t) :
    ∃ u a v, OnlyKeyboard s u ∧ t = u.memWrite a v := by
  obtain h | h | h := h
  · cases h
    exact ⟨_, _, _, .refl s, rfl⟩
  · cases h
    exact ⟨_, _, _, .memRead _ _, rfl⟩
  · cases h
    exact ⟨_, _, _, .refl s, rfl⟩

theorem sameKeyboard_memWrite (s : State) (a v : Word) : SameKeyboard s (s.memWrite a v) :=
  ⟨s.memWrite_kbReady a v, s.memWrite_kbData a v, s.memWrite_input a v, s.memWrite_kbdrDraws a v⟩

theorem sameMemBut_memWrite (s : State) (a v : Word) : SameMemBut a s (s.memWrite a v) := by
  intro b other
  rw [s.read_memWrite, if_neg (fun h => other h.2)]

/-- Settles O35: only STI's pointer read touches the keyboard, and a `memWrite` changes one plain word. -/
theorem storeFrame : Obligations.StoreFrame := by
  intro sr base off off6 s t
  refine ⟨fun h => ?frame, fun h => ?st, fun h => ?str, fun h => ?sti⟩
  case frame =>
    obtain ⟨u, a, v, same, rfl⟩ := store_eq_memWrite h
    exact ⟨fun r _ => by rw [State.reg_memWrite, same.reg], by rw [State.memWrite_pc, same.pc],
      by rw [State.memWrite_cond, same.cond], by rw [State.memWrite_output, same.output],
      ⟨by rw [State.memWrite_running, same.running], by rw [State.memWrite_fault, same.fault]⟩,
      by rw [State.memWrite_config, same.config]⟩
  case st =>
    cases h
    exact ⟨sameKeyboard_memWrite _ _ _, sameMemBut_memWrite _ _ _, State.memWrite_device _⟩
  case str =>
    cases h
    exact ⟨sameKeyboard_memWrite _ _ _, sameMemBut_memWrite _ _ _, State.memWrite_device _⟩
  case sti =>
    cases (exec_sti sr off s).symm.trans h
    have same := OnlyKeyboard.memRead s (s.pcRel off)
    refine ⟨sameKeyboard_memWrite _ _ _, ?others, fun device => ?ignored, fun plain => ?keyboard⟩
    case others =>
      intro b other
      rw [sameMemBut_memWrite _ _ _ b other, same.mem]
    case ignored =>
      intro b
      rw [State.memWrite_device _ ((same.isDevice _).trans device), same.mem]
    case keyboard =>
      rw [s.memRead_plain _ plain]
      exact sameKeyboard_memWrite s _ _

end Sys2Proof.Machine
end

section
/-! A step at a plain address (30_encoding.md R81), and a store to the next one (20_memory.md R70). -/

namespace Sys2Proof.Machine

/-- At a plain address that holds the word of `i`, a running core runs `i` with pc advanced. -/
theorem step_of_word {s : State} {i : Instr} (running : s.running = true) (plain : s.isDevice s.pc = false)
    (wf : i.wellFormed = true) (word : s.mem.read s.pc = encode i) : step s = exec i (s.setPc (s.pc + 1)) := by
  rw [step_running running, s.fetch_plain plain, word, decodeReadsBackEncode i wf]

/-- Settles O15: the fetch by its definition, and at a plain address by the word there. -/
theorem stepRunsDecodedInstruction : Obligations.StepRunsDecodedInstruction := by
  intro s running
  exact ⟨step_running running, fun i wf plain word => step_of_word running plain wf word⟩

/-- Settles O54: ST's address is pc, which the stored word's fetch then reads. -/
theorem storedWordRunsNext : Obligations.StoredWordRunsNext := by
  intro s t sr running plain plainNext word h
  have target : (s.setPc (s.pc + 1)).pcRel (0 : BitVec 9) = s.pc + 1 := BitVec.add_zero _
  rw [step_of_word running plain rfl word, exec_st, target] at h
  have stored : t = (s.setPc (s.pc + 1)).memWrite (s.pc + 1) (s.reg sr) := (Host.Outcome.next.inj h).symm
  have pc : t.pc = s.pc + 1 := by rw [stored, State.memWrite_pc, State.setPc_pc]
  have stillRunning : t.running = true := by rw [stored, State.memWrite_running, State.setPc_running, running]
  have plain' : t.isDevice t.pc = false := by
    rw [pc, State.isDevice, stored, State.memWrite_config]
    exact plainNext
  have word' : t.mem.read t.pc = s.reg sr := by
    rw [pc, stored]
    exact State.read_memWrite_same_of_plain _ _ _ plainNext
  have twice : s.pc + 1 + 1 = s.pc + 2 := BitVec.add_assoc s.pc 1 1
  refine ⟨pc, ?next⟩
  case next =>
    rw [step_running stillRunning, t.fetch_plain plain', word', pc, twice]
    rfl

end Sys2Proof.Machine
end

section
/-! The trap routines (44_trap.md R171 to R179). -/

namespace Sys2Proof.Machine

/-! ### GETC and IN -/

theorem exec_trapGetc (ign : BitVec 4) (s : State) : exec (.trapGetc ign) s = execTrapGetc s := rfl

theorem exec_trapIn (ign : BitVec 4) (s : State) : exec (.trapIn ign) s = execTrapIn s := rfl

theorem execTrapGetc_of_take {s t : State} {c : Byte} (h : s.kbdTake = (some c, t)) :
    execTrapGetc s = .next (t.setReg 0 (zext c)) := by
  rw [execTrapGetc, h]

theorem execTrapIn_of_take {s t : State} {c : Byte} (h : s.kbdTake = (some c, t)) :
    execTrapIn s = .next (((t.setOutput (t.output ++ t.config.inPrompt)).out c).setReg 0 (zext c)) := by
  rw [execTrapIn, h]

theorem execTrapGetc_of_none {s : State} (h : s.kbdTake = (none, s)) : execTrapGetc s = .next s.hold := by
  rw [execTrapGetc, h]

theorem execTrapIn_of_none {s : State} (h : s.kbdTake = (none, s)) : execTrapIn s = .next s.hold := by
  rw [execTrapIn, h]

/-- Settles O36: the latched character is taken first, else the channel's head, through the latch. -/
theorem getcAndInTakeNextCharacter : Obligations.GetcAndInTakeNextCharacter := by
  intro ign s
  refine ⟨fun latched => ?latched, fun b rest empty input => ?channel⟩
  case latched =>
    have take := s.kbdTake_latched latched
    exact ⟨execTrapGetc_of_take take, execTrapIn_of_take take⟩
  case channel =>
    have take := s.kbdTake_channel b rest empty input
    have latch : (((s.setKbData b).setInput rest).setKbReady true).setKbReady false =
        (s.setKbData b).setInput rest := by
      rw [← empty]
      rfl
    rw [latch] at take
    exact ⟨execTrapGetc_of_take take, execTrapIn_of_take take⟩

/-- A held step puts pc back, so it undoes the fetch's increment. -/
theorem step_held {ign : BitVec 4} {s : State} (empty : s.kbReady = false) (noInput : s.input = [])
    (running : s.running = true) (plain : s.isDevice s.pc = false)
    (word : s.mem.read s.pc = encode (.trapGetc ign) ∨ s.mem.read s.pc = encode (.trapIn ign)) : step s = .next s := by
  have take : (s.setPc (s.pc + 1)).kbdTake = (none, s.setPc (s.pc + 1)) := State.kbdTake_none _ empty noInput
  have undone : (s.setPc (s.pc + 1)).hold = s := by
    have back : s.pc + 1 - 1 = s.pc := BitVec.add_sub_cancel s.pc 1
    rw [State.hold, State.setPc_pc, back]
    rfl
  obtain word | word := word
  · rw [step_of_word running plain rfl word, exec_trapGetc, execTrapGetc_of_none take, undone]
  · rw [step_of_word running plain rfl word, exec_trapIn, execTrapIn_of_none take, undone]

/-- Settles O37: the held step puts pc back, so the fetch's increment is undone. -/
theorem getcAndInHoldWithoutInput : Obligations.GetcAndInHoldWithoutInput := by
  intro ign s empty noInput
  have take := s.kbdTake_none empty noInput
  refine ⟨execTrapGetc_of_none take, execTrapIn_of_none take, fun running plain word => ?step⟩
  case step =>
    have continued : reportOf (s.setFault none) = .continued := if_pos running
    exact ⟨step_held empty noInput running plain word, hostStep_eq_next_iff.2
      ⟨step_held empty noInput running plain word, s.setFault none,
        step_held (s := s.setFault none) empty noInput running plain word, continued.symm⟩⟩

/-! ### The frame of the routines -/

theorem State.kbdTake_of_fst_none {s : State} (h : s.kbdTake.1 = none) : s.kbdTake.2 = s := by
  simp only [State.kbdTake] at h ⊢
  split at h
  case isTrue => cases h
  case isFalse notReady =>
    rw [if_neg notReady]
    obtain ⟨e, -⟩ | ⟨b, rest, -, -, e⟩ := s.kbdPoll_cases
    · exact e
    · exact absurd (by rw [e]; rfl) notReady

theorem ScanChanges.of_onlyKeyboard {s t : State} (h : OnlyKeyboard s t) : ScanChanges s t :=
  ⟨h.regs, h.pc, h.cond, h.running, h.mem, h.fault, h.config, [], by rw [h.output, List.append_nil]⟩

/-- GETC takes a character from the keyboard into R0, or is held. -/
theorem execTrapGetc_effect {s t : State} (h : execTrapGetc s = .next t) :
    (∃ u v, OnlyKeyboard s u ∧ t = u.setReg 0 v) ∨ t = s.hold := by
  obtain ⟨c, -, rfl⟩ | ⟨none, rfl⟩ := execTrapGetc_cases h
  · exact .inl ⟨_, _, .kbdTake s, rfl⟩
  · exact .inr (by rw [State.kbdTake_of_fst_none none])

/-- IN does so too, after more output. -/
theorem execTrapIn_effect {s t : State} (h : execTrapIn s = .next t) :
    (∃ u v, ScanChanges s u ∧ t = u.setReg 0 v) ∨ t = s.hold := by
  obtain ⟨c, -, rfl⟩ | ⟨none, rfl⟩ := execTrapIn_cases h
  · have prompt : ScanChanges s.kbdTake.2 (s.kbdTake.2.setOutput (s.kbdTake.2.output ++ s.kbdTake.2.config.inPrompt)) :=
      ⟨rfl, rfl, rfl, rfl, rfl, rfl, rfl, _, rfl⟩
    exact .inl ⟨_, _, ((ScanChanges.of_onlyKeyboard (.kbdTake s)).trans prompt).trans (.out _ c), rfl⟩
  · exact .inr (by rw [State.kbdTake_of_fst_none none])

theorem getcOrIn_effect {ign : BitVec 4} {s t : State}
    (h : exec (.trapGetc ign) s = .next t ∨ exec (.trapIn ign) s = .next t) :
    (∃ u v, ScanChanges s u ∧ t = u.setReg 0 v) ∨ t = s.hold := by
  obtain h | h := h
  · obtain ⟨u, v, same, rfl⟩ | held := execTrapGetc_effect h
    · exact .inl ⟨u, v, .of_onlyKeyboard same, rfl⟩
    · exact .inr held
  · exact execTrapIn_effect h

/-- OUT, PUTS and PUTSP write output and may read the keyboard. -/
theorem writer_effect {ign : BitVec 4} {s t : State}
    (h : exec (.trapOut ign) s = .next t ∨ exec (.trapPuts ign) s = .next t ∨ exec (.trapPutsp ign) s = .next t) :
    ScanChanges s t := by
  obtain h | h | h := h
  · cases h
    exact .out s _
  · exact execTrapPuts_changes h
  · exact execTrapPutsp_changes h

theorem execTrapGetc_output {s t : State} (h : execTrapGetc s = .next t) : t.output = s.output := by
  obtain ⟨u, v, same, rfl⟩ | rfl := execTrapGetc_effect h
  · exact same.output
  · rfl

/-- No routine writes COND, memory or the parameters (R178). -/
theorem trap_keeps {ign : BitVec 4} {vect : BitVec 8} {s t : State}
    (h : exec (.trapGetc ign) s = .next t ∨ exec (.trapOut ign) s = .next t ∨ exec (.trapPuts ign) s = .next t ∨
      exec (.trapIn ign) s = .next t ∨ exec (.trapPutsp ign) s = .next t ∨ exec (.trapHalt ign) s = .next t ∨
      exec (.trap ign vect) s = .next t) : t.cond = s.cond ∧ t.mem = s.mem ∧ t.config = s.config := by
  have taken (h : exec (.trapGetc ign) s = .next t ∨ exec (.trapIn ign) s = .next t) :
      t.cond = s.cond ∧ t.mem = s.mem ∧ t.config = s.config := by
    obtain ⟨u, v, same, rfl⟩ | rfl := getcOrIn_effect h
    · exact ⟨same.cond, same.mem, same.config⟩
    · exact ⟨rfl, rfl, rfl⟩
  have written (h : ScanChanges s t) : t.cond = s.cond ∧ t.mem = s.mem ∧ t.config = s.config :=
    ⟨h.cond, h.mem, h.config⟩
  obtain getc | out | puts | takeIn | putsp | halt | unknown := h
  · exact taken (.inl getc)
  · exact written (writer_effect (.inl out))
  · exact written (writer_effect (.inr (.inl puts)))
  · exact taken (.inr takeIn)
  · exact written (writer_effect (.inr (.inr putsp)))
  · cases halt
    exact ⟨rfl, rfl, rfl⟩
  · cases unknown
    exact ⟨rfl, rfl, rfl⟩

/-- Settles O45, by what GETC and IN, the three writers, HALT and an unknown vector can do. -/
theorem trapFrame : Obligations.TrapFrame := by
  intro ign vect s t
  refine ⟨fun h => ?takers, fun h => ?writers, fun h => ?halt, fun h => ?unknown, fun h => ?keyboard, fun h => ?output,
    fun h => ?all⟩
  case takers =>
    obtain ⟨u, v, same, rfl⟩ | rfl := getcOrIn_effect h
    · exact ⟨fun r other => (sameRegsBut_setReg u 0 v r other).trans (congrArg (·[r]) same.regs),
        ⟨same.running, same.fault⟩, .inl same.pc⟩
    · exact ⟨fun _ _ => rfl, ⟨rfl, rfl⟩, .inr rfl⟩
  case writers =>
    have same := writer_effect h
    exact ⟨fun r _ => congrArg (·[r]) same.regs, ⟨same.running, same.fault⟩, same.pc⟩
  case halt =>
    cases h
    exact ⟨fun _ _ => rfl, rfl, rfl⟩
  case unknown =>
    cases h
    exact ⟨fun _ _ => rfl, rfl⟩
  case keyboard =>
    obtain h | h | h := h
    all_goals
      cases h
      exact ⟨rfl, rfl, rfl, rfl⟩
  case output =>
    obtain h | h | h := h
    · exact execTrapGetc_output h
    · cases h; rfl
    · cases h; rfl
  case all =>
    obtain ⟨cond, mem, config⟩ := trap_keeps h
    exact ⟨cond, fun a => congrArg (·.read a) mem, mem, config⟩

end Sys2Proof.Machine
end

section
/-! HALT and the fatal errors as next states (44_trap.md R176, R177; 45_reserved.md), and the state after `new`. -/

namespace Sys2Proof.Machine

/-- Settles O43: HALT's whole effect is `halt`. -/
theorem haltStopsTheCore : Obligations.HaltStopsTheCore := fun ign s => exec_halt (i := .trapHalt ign) rfl s

/-- Settles O44: each of the three enters the fatal error with its own word. -/
theorem fatalErrorsStopTheCore : Obligations.FatalErrorsStopTheCore := fun ign vect ign12 s =>
  ⟨fun _ => exec_fatal (i := .trap ign vect) rfl s, exec_fatal (i := .illegal8 ign12) rfl s,
    exec_fatal (i := .illegalD ign12) rfl s⟩

theorem State.reg_new (c : Config) (r : Reg) : (State.new c).reg r = 0x0000#16 := by
  simp [State.new, State.reg]

/-- Settles O9: the registers and the words of memory one by one, the other fields by `new`'s definition. -/
theorem newHoldsConstructionValues : Obligations.NewHoldsConstructionValues :=
  ⟨fun c => ⟨State.reg_new c, rfl, rfl, rfl, Memory.read_nil, rfl, rfl, rfl, rfl, rfl, rfl⟩, rfl⟩

end Sys2Proof.Machine
end

section
/-! The canonical form of memory (log 1): its cells are those of its words. -/

namespace Sys2Proof.Machine

theorem Memory.highByte_read (m : Memory) (a : Word) : highByte (m.read a) = m.cell (2 * a.toNat) :=
  BitVec.extractLsb'_append_eq_left

theorem Memory.lowByte_read (m : Memory) (a : Word) : lowByte (m.read a) = m.cell (2 * a.toNat + 1) :=
  BitVec.extractLsb'_append_eq_right

/-- A canonical memory lists no cell past the last word's. -/
theorem Memory.cell_of_wfFrom_of_le {lo n : Nat} {m : Memory} (wf : Memory.wfFrom lo m = true)
    (h : 2 * Config.memWords ≤ n) : m.cell n = 0#8 := by
  induction m generalizing lo with
  | nil => rfl
  | cons c m ih =>
    obtain ⟨k, b⟩ := c
    obtain ⟨-, inside, -, rest⟩ := (Memory.wfFrom_cons lo k b m).1 wf
    rw [Memory.cell, if_neg (by omega)]
    exact ih rest

/-- The two cells of each word are its two bytes. -/
theorem Memory.cell_eq_of_read_eq {m m' : Memory} (same : ∀ a, m.read a = m'.read a) {n : Nat}
    (h : n < 2 * Config.memWords) : m.cell n = m'.cell n := by
  have word : (BitVec.ofNat 16 (n / 2)).toNat = n / 2 := by
    rw [BitVec.toNat_ofNat, Nat.mod_eq_of_lt (by simp only [Config.memWords] at h; omega)]
  have high := congrArg highByte (same (BitVec.ofNat 16 (n / 2)))
  have low := congrArg lowByte (same (BitVec.ofNat 16 (n / 2)))
  rw [Memory.highByte_read, Memory.highByte_read, word] at high
  rw [Memory.lowByte_read, Memory.lowByte_read, word] at low
  obtain even | odd := Nat.mod_two_eq_zero_or_one n
  · rwa [show 2 * (n / 2) = n by omega] at high
  · rwa [show 2 * (n / 2) + 1 = n by omega] at low

/-- Settles O52: words fix the cells below the last word's end, and the canonical form the others. -/
theorem canonicalMemoriesAreEqualData : Obligations.CanonicalMemoriesAreEqualData := by
  refine ⟨fun m m' wf wf' same => Memory.wfFrom_ext wf wf' fun n => ?cells, fun s a v wf => s.wf_memWrite a v wf⟩
  case cells =>
    by_cases inside : n < 2 * Config.memWords
    · exact Memory.cell_eq_of_read_eq same inside
    · have beyond := Nat.le_of_not_lt inside
      rw [Memory.cell_of_wfFrom_of_le wf beyond, Memory.cell_of_wfFrom_of_le wf' beyond]

end Sys2Proof.Machine
end

section
/-! The keyboard registers (20_memory.md R56 to R59). -/

namespace Sys2Proof.Machine

section
variable {s : State}

theorem State.kbdPoll_latched (h : s.kbReady = true) : s.kbdPoll = s := by
  simp [State.kbdPoll, h]

theorem State.kbdPoll_none (h : s.kbReady = false) (h' : s.input = []) : s.kbdPoll = s := by
  simp [State.kbdPoll, h, h']

theorem State.kbdPoll_channel {b : Byte} {rest : List Byte} (h : s.kbReady = false) (h' : s.input = b :: rest) :
    s.kbdPoll = ((s.setKbData b).setInput rest).setKbReady true := by
  simp [State.kbdPoll, h, h']

theorem State.memRead_kbsr_of_ready (h : s.kbdPoll.kbReady = true) :
    s.memRead s.config.kbsrAddr = (0x8000#16, s.kbdPoll) := by
  rw [State.memRead, if_pos rfl, State.readKbsr, if_pos h]

theorem State.memRead_kbsr_of_not_ready (h : s.kbdPoll.kbReady = false) :
    s.memRead s.config.kbsrAddr = (0x0000#16, s.kbdPoll) := by
  rw [State.memRead, if_pos rfl, State.readKbsr, if_neg (by simp [h])]

theorem State.memRead_kbdr (wf : s.config.wf) : s.memRead s.config.kbdrAddr = s.readKbdr := by
  rw [State.memRead, if_neg (Ne.symm wf), if_pos rfl]

theorem State.readKbdr_of_ready (h : s.kbdPoll.kbReady = true) :
    s.readKbdr = (zext s.kbdPoll.kbData, s.kbdPoll.setKbReady false) := by
  rw [State.readKbdr, if_pos h]

theorem State.readKbdr_of_not_ready (h : s.kbdPoll.kbReady = false) :
    s.readKbdr = (Config.kbdrEmpty s.kbdPoll.kbdrDraws, s.kbdPoll.setKbdrDraws (s.kbdPoll.kbdrDraws + 1)) := by
  rw [State.readKbdr, if_neg (by simp [h])]

end

/-- Settles O53, by what the poll finds: a latched character, one in the channel, or none. -/
theorem keyboardRegistersPollAndConsume : Obligations.KeyboardRegistersPollAndConsume := by
  intro s wf
  refine ⟨fun latched => ?statusLatched, fun b rest empty input => ?statusChannel, fun empty input => ?statusNone,
    fun latched => ?dataLatched, fun b rest empty input => ?dataChannel, fun empty input => ?dataNone,
    fun v => ⟨State.memWrite_device v ?ksr, State.memWrite_device v ?kdr⟩⟩
  case statusLatched =>
    have poll := State.kbdPoll_latched latched
    rw [State.memRead_kbsr_of_ready (by rw [poll, latched]), poll]
    rfl
  case statusChannel =>
    have poll := State.kbdPoll_channel empty input
    rw [State.memRead_kbsr_of_ready (by rw [poll]; rfl), poll]
    rfl
  case statusNone =>
    have poll := State.kbdPoll_none empty input
    rw [State.memRead_kbsr_of_not_ready (by rw [poll, empty]), poll]
    rfl
  case dataLatched =>
    have poll := State.kbdPoll_latched latched
    rw [State.memRead_kbdr wf, State.readKbdr_of_ready (by rw [poll, latched]), poll]
    rfl
  case dataChannel =>
    have poll := State.kbdPoll_channel empty input
    rw [State.memRead_kbdr wf, State.readKbdr_of_ready (by rw [poll]; rfl), poll, ← empty]
    rfl
  case dataNone =>
    have poll := State.kbdPoll_none empty input
    rw [State.memRead_kbdr wf, State.readKbdr_of_not_ready (by rw [poll, empty]), poll]
    exact ⟨_, rfl⟩
  case ksr => simp [State.isDevice]
  case kdr => simp [State.isDevice]

end Sys2Proof.Machine
end

section
/-! `load` (70_reset_and_hazards.md R261 to R263). -/

namespace Sys2Proof.Machine

/-! ### Images -/

theorem imageBytes_cons (w : Word) (ws : List Word) :
    imageBytes (w :: ws) = highByte w :: lowByte w :: imageBytes ws := rfl

theorem imageWords_imageBytes (ws : List Word) : imageWords (imageBytes ws) = some ws := by
  induction ws with
  | nil => rfl
  | cons w ws ih => rw [imageBytes_cons, imageWords, ih, high_append_low]; rfl

theorem parity_cons_cons (hi lo : Byte) (rest : List Byte) :
    (hi :: lo :: rest).length % 2 = rest.length % 2 := Nat.add_mod_right rest.length 2

theorem imageWords_of_odd (bytes : List Byte) (odd : bytes.length % 2 = 1) : imageWords bytes = none := by
  induction bytes using imageWords.induct with
  | case1 => cases odd
  | case2 b => rfl
  | case3 hi lo rest ih =>
    rw [imageWords, ih (parity_cons_cons hi lo rest ▸ odd)]
    rfl

theorem eq_imageBytes_of_even (bytes : List Byte) (even : bytes.length % 2 = 0) : ∃ ws, bytes = imageBytes ws := by
  induction bytes using imageWords.induct with
  | case1 => exact ⟨[], rfl⟩
  | case2 b => cases even
  | case3 hi lo rest ih =>
    obtain ⟨ws, rfl⟩ := ih (parity_cons_cons hi lo rest ▸ even)
    have high : highByte (hi ++ lo) = hi := BitVec.extractLsb'_append_eq_left
    have low : lowByte (hi ++ lo) = lo := BitVec.extractLsb'_append_eq_right
    exact ⟨(hi ++ lo) :: ws, by rw [imageBytes_cons, high, low]⟩

theorem State.load_of_words {s : State} {bytes : List Byte} {origin : Word} {ws : List Word}
    (h : imageWords bytes = some (origin :: ws)) : s.load bytes =
      (.ok origin, (((s.setMem (s.mem.writeWords origin ws)).setPc origin).setRunning true).setFault none) := by
  rw [State.load, h]

theorem State.load_imageBytes (s : State) (origin : Word) (ws : List Word) :
    s.load (imageBytes (origin :: ws)) =
      (.ok origin, (((s.setMem (s.mem.writeWords origin ws)).setPc origin).setRunning true).setFault none) :=
  State.load_of_words (imageWords_imageBytes _)

/-! ### The words a load writes -/

/-- R263: where no program word goes, memory is as before. -/
theorem Memory.read_writeWords_of_missed {m : Memory} {a b : Word} {ws : List Word}
    (missed : ∀ i, i < ws.length → a + BitVec.ofNat 16 i ≠ b) : (m.writeWords a ws).read b = m.read b := by
  induction ws generalizing m a with
  | nil => rfl
  | cons w ws ih =>
    have notFirst : b ≠ a := by
      have first := missed 0 (Nat.succ_pos _)
      rw [addr_zero] at first
      exact first.symm
    have notLater (i : Nat) (hi : i < ws.length) : a + 1 + BitVec.ofNat 16 i ≠ b := by
      rw [← addr_succ]
      exact missed (i + 1) (Nat.succ_lt_succ hi)
    rw [Memory.writeWords, ih notLater, Memory.read_write_other m a b w notFirst]

/-- R261: the i-th word stands at its address unless a later word goes there. -/
theorem Memory.read_writeWords_of_last {m : Memory} {a : Word} {ws : List Word} {i : Nat} (h : i < ws.length)
    (last : ∀ j, i < j → j < ws.length → a + BitVec.ofNat 16 j ≠ a + BitVec.ofNat 16 i) :
    (m.writeWords a ws).read (a + BitVec.ofNat 16 i) = ws[i] := by
  induction ws generalizing m a i with
  | nil => cases h
  | cons w ws ih =>
    cases i with
    | zero =>
      have notLater (j : Nat) (hj : j < ws.length) : a + 1 + BitVec.ofNat 16 j ≠ a + BitVec.ofNat 16 0 := by
        rw [← addr_succ]
        exact last (j + 1) j.succ_pos (Nat.succ_lt_succ hj)
      rw [Memory.writeWords, Memory.read_writeWords_of_missed notLater, addr_zero, Memory.read_write_same]
      rfl
    | succ i =>
      have lastOfRest (j : Nat) (hij : i < j) (hj : j < ws.length) :
          a + 1 + BitVec.ofNat 16 j ≠ a + 1 + BitVec.ofNat 16 i := by
        rw [← addr_succ, ← addr_succ]
        exact last (j + 1) (Nat.succ_lt_succ hij) (Nat.succ_lt_succ hj)
      rw [addr_succ, Memory.writeWords, ih (Nat.lt_of_succ_lt_succ h) lastOfRest]
      rfl

/-- Settles O55: an image's bytes are read back as its words, which are written in order. -/
theorem loadWritesImage : Obligations.LoadWritesImage := by
  intro s origin ws
  rw [State.load_imageBytes]
  exact ⟨rfl, rfl, fun i h last => Memory.read_writeWords_of_last h last,
    fun a missed => Memory.read_writeWords_of_missed missed⟩

/-- Settles O56: an odd sequence has no words, an even one is the image of its words. -/
theorem loadRejectsMalformedImages : Obligations.LoadRejectsMalformedImages := by
  intro s bytes
  constructor
  case left =>
    rintro (rfl | odd)
    · rfl
    · rw [State.load, imageWords_of_odd bytes odd]
  case right =>
    intro nonempty even
    obtain ⟨_ | ⟨origin, ws⟩, rfl⟩ := eq_imageBytes_of_even bytes even
    · exact absurd rfl nonempty
    · exact ⟨ws, origin, rfl, by rw [State.load_imageBytes]⟩

end Sys2Proof.Machine
end

section
/-! The channels and inspection (70_reset_and_hazards.md R266 to R269). -/

namespace Sys2Proof.Machine

theorem State.readMemoryRange_eq (s : State) (start : Word) (len : Nat) :
    s.readMemoryRange start len = (List.range len).map (fun i => s.mem.read (start + BitVec.ofNat 16 i)) := by
  induction len generalizing start with
  | zero => rfl
  | succ n ih =>
    simp only [State.readMemoryRange, ih, List.range_succ_eq_map, List.map_cons, List.map_map, Function.comp_def,
      addr_zero, Nat.succ_eq_add_one, addr_succ]

/-- Settles O57: pushes and pops at the channels' ends, the snapshot's fields, and the words of the range in order. -/
theorem hostPortsQueueAndInspect : Obligations.HostPortsQueueAndInspect := by
  intro s bs start len
  refine ⟨s.foldl_pushInput bs, fun b rest nonempty => ?pop, fun empty => ?popNone, fun _ => rfl, rfl, rfl, rfl,
    s.readMemoryRange_eq start len⟩
  case pop =>
    rw [State.popOutput, nonempty]
    rfl
  case popNone => rw [State.popOutput, empty]

end Sys2Proof.Machine
end
